-- ==== Sys2Proof/Word.lean ====
section
/-! DEFINITION. The word types of the machine and their plainest operations. -/

namespace Sys2Proof

/-- One byte (R3). -/
abbrev Byte := BitVec 8

/-- A 16-bit value: an FP16 or BF16 pattern, an abort code. -/
abbrev Half := BitVec 16

/-- A 32-bit value: one lane of a vector register (R35). -/
abbrev Word := BitVec 32

/-- A 64-bit value: a scalar register, a code word (R30, R35). -/
abbrev DWord := BitVec 64

/-- One bit for each of the 32 lanes of a group (R53). In legacy width bits 31:16 are 0. -/
abbrev Mask := BitVec 32

/-- The name of a named line (R274). -/
abbrev Name := BitVec 128

/-- A register, slot or special index: the 14-bit fields D, A, B and C (R30). -/
abbrev Idx := BitVec 14

end Sys2Proof
end

