-- ==== Sys2Proof/Syntax.lean ====
section
/-! DEFINITION. The syntax of the machine: one constructor of `Instr` for each row of spec/opcode_table.json.
The first 145 rows are virtual instructions with an encoding (R30, R41); the other rows are events and management
commands, which have no encoding. -/

namespace Sys2Proof

/-- The type codes of R36, in the order of their codes 0x00 to 0x14. -/
inductive Ty
  | i8 | i16 | i32 | i64 | n8 | n16 | n32 | n64 | b32 | b64 | f32 | f16 | bf16 | e4m3 | e5m2 | bx8 | bx4
  | f16x2 | bf16x2 | i16x2 | n16x2
  deriving DecidableEq, Repr

/-- The rounding modes of M8 bits 7:6 (R37). -/
inductive Round
  | rn | rz | ru | rd
  deriving DecidableEq, Repr

/-- A guard: predicate 0 to 14, or 15 for always, and its negation GN (R30, R44). -/
structure Guard where
  reg : BitVec 4
  neg : Bool
  deriving DecidableEq, Repr

/-- The guard of an unguarded instruction: G = 15, GN = 0. -/
def Guard.always : Guard := ⟨15, false⟩

/-- An operand named by a field and its kind (R31, R32). `imm14` is the immediate in the B field (X = 0, or the
count of SPAWN); `imm32` is IMM32 with X = 1. -/
inductive Opnd
  | reg (i : Idx)
  | imm14 (v : BitVec 14)
  | imm32 (v : BitVec 32)
  | scal (i : Idx)
  | slot (i : Idx)
  deriving DecidableEq, Repr

/-- The fields of the classes 0x00 to 0x5F (R30, R36, R37). `ext` says that the extension word is present. A field
an entry does not use holds 0 (`.reg 0` for B and C). -/
structure Alu where
  guard : Guard
  ext : Bool
  u : Bool
  ty : Ty
  rm : Round
  sat : Bool
  sub : BitVec 5
  d : Idx
  a : Idx
  b : Opnd
  c : Opnd
  deriving DecidableEq, Repr

/-- PSET: three predicate sources and an eight-bit table (R71). -/
structure PsetOp where
  guard : Guard
  d : Idx
  a : Idx
  b : Idx
  c : Idx
  table : BitVec 8
  deriving DecidableEq, Repr

/-- BRA and TRY-shaped targets: a signed count of words in IMM32 (R34). -/
structure BraOp where
  guard : Guard
  target : BitVec 32
  deriving DecidableEq, Repr

/-- BRX: the vector register of the targets, and the join (R138). -/
structure BrxOp where
  guard : Guard
  a : Idx
  join : BitVec 32
  deriving DecidableEq, Repr

/-- CALL and CALLX (R136, R139). `imm` is the target of CALL, and the vector register of the indices of CALLX. -/
structure CallOp where
  guard : Guard
  ns : BitVec 3
  nsr : BitVec 3
  na : BitVec 4
  nr : BitVec 4
  d : Idx
  a : Idx
  b : Idx
  c : Idx
  imm : BitVec 32
  deriving DecidableEq, Repr

/-- RET (R136, R140). -/
structure RetOp where
  guard : Guard
  ext : Bool
  nsr : BitVec 3
  nr : BitVec 4
  a : Idx
  b : Idx
  deriving DecidableEq, Repr

/-- END: a guard and no operand (R141). -/
structure GuardOp where
  guard : Guard
  ext : Bool
  deriving DecidableEq, Repr

/-- An instruction with neither guard nor operand: YIELD, NOP, NPBEG, NPEND, COMMIT, RTE, `dbg.halt`. -/
structure PlainOp where
  ext : Bool
  deriving DecidableEq, Repr

/-- SPAWN: count made, parameter, count asked, entry index (R142). -/
structure SpawnOp where
  d : Idx
  a : Idx
  b : Opnd
  entry : BitVec 32
  deriving DecidableEq, Repr

/-- TRAP and BKPT: a trap code (R146). -/
structure TrapOp where
  guard : Guard
  ext : Bool
  code : BitVec 32
  deriving DecidableEq, Repr

/-- The access codes of R42. -/
inductive Acc
  | n8 | i8 | n16 | i16 | b32 | b64
  deriving DecidableEq, Repr

/-- The cache policies of R182. They name where data are kept, and never change a value. -/
inductive Policy
  | near | die | once | home
  deriving DecidableEq, Repr

/-- The index and offset of a memory operand (R40). `vec` and `scal` carry the scale code and the offset (both 0 when
the extension word is absent); `off14` is the 14-bit offset of X = 0, `off32` the 32-bit offset of X = 1 with no
index, whose scale bits are kept though nothing reads them. -/
inductive AddrForm
  | vec (i : Idx) (scale : BitVec 2) (off : BitVec 32)
  | scal (i : Idx) (scale : BitVec 2) (off : BitVec 32)
  | off14 (v : BitVec 14)
  | off32 (scale : BitVec 2) (v : BitVec 32)
  deriving DecidableEq, Repr

/-- Loads and stores (R181, R182). -/
structure MemOp where
  guard : Guard
  ext : Bool
  acc : Acc
  pol : Policy
  vb : Bool
  su : Bool
  d : Idx
  a : Idx
  addr : AddrForm
  deriving DecidableEq, Repr

/-- PREF (R187). -/
structure PrefOp where
  guard : Guard
  ext : Bool
  pol : Policy
  vb : Bool
  a : Idx
  addr : AddrForm
  deriving DecidableEq, Repr

/-- EVICT (R188): `.l1` and `.l2` of addressed lines, or `.l1all`, which has no address. -/
inductive EvictOp
  | line (guard : Guard) (ext : Bool) (l2 : Bool) (vb : Bool) (a : Idx) (addr : AddrForm)
  | l1all
  deriving DecidableEq, Repr

/-- Agent scopes, codes 0 to 5 (R39). -/
inductive Scope
  | grp | blk | clu | dev | dom | sys
  deriving DecidableEq, Repr

/-- Orders of fences and atomics, codes 0 to 4 (R182, R203). -/
inductive Order
  | relaxed | acq | rel | ar | sc
  deriving DecidableEq, Repr

/-- FENCE (R189). -/
structure FenceOp where
  scope : Scope
  order : Order
  mask : BitVec 4
  deriving DecidableEq, Repr

/-- The atomic operations, AOP 0x00 to 0x08 (R204). -/
inductive AOp
  | add | min | max | and | or | xor | exch | inc | dec
  deriving DecidableEq, Repr

/-- Atomics (R203, R204). The extension word is always present. `ps` is the peer bit of ACASS and REDS. -/
structure AtomOp where
  guard : Guard
  scope : Scope
  order : Order
  vb : Bool
  su : Bool
  mask : BitVec 4
  d : Idx
  a : Idx
  addr : AddrForm
  ps : Bool
  aop : AOp
  ty : Ty
  deriving DecidableEq, Repr

/-- Barrier scopes, codes 1 to 3 (R191). -/
inductive BScope
  | blk | clu | grid
  deriving DecidableEq, Repr

/-- Barrier instructions (R198). `d` and `a` are 0 where the entry does not use them. -/
structure BarOp where
  scope : BScope
  mask : BitVec 4
  num : BitVec 4
  d : Idx
  a : Idx
  deriving DecidableEq, Repr

/-- WAITC: the limits of the four counters (R202). -/
structure WaitcOp where
  nld : BitVec 8
  nst : BitVec 8
  ncp : BitVec 8
  ntl : BitVec 8
  deriving DecidableEq, Repr

/-- Copy spaces 0 to 3 (R216). -/
inductive CSpace
  | glob | own | peer | bstore
  deriving DecidableEq, Repr

/-- CPY (R233, R234). -/
structure CpyOp where
  ext : Bool
  ch : BitVec 3
  dsp : CSpace
  ssp : CSpace
  d : Idx
  a : Idx
  len : Opnd
  deriving DecidableEq, Repr

/-- CPYX, CPYA and CPYD (R233, R235): the record's register, whether it lies in the own scratchpad, and CLR (CPYD). -/
structure CpyRecOp where
  ext : Bool
  ch : BitVec 3
  a : Idx
  inScr : Bool
  clr : Bool
  deriving DecidableEq, Repr

/-- CHCFG (R233, R238): base, length, space and window exponent. -/
structure ChcfgOp where
  ext : Bool
  ch : BitVec 3
  a : Idx
  b : Idx
  sp : CSpace
  w : BitVec 16
  deriving DecidableEq, Repr

/-- WMARK (R239). -/
structure WmarkOp where
  ext : Bool
  ch : BitVec 3
  d : Idx
  clr : Bool
  deriving DecidableEq, Repr

/-- YIELDC (R240). -/
structure YieldcOp where
  ch : BitVec 3
  target : BitVec 32
  deriving DecidableEq, Repr

/-- FSEND and SPRED (R241): fabric address, source address, length or count. -/
structure FabOp where
  ext : Bool
  ch : BitVec 3
  d : Idx
  a : Idx
  len : Opnd
  inScr : Bool
  deriving DecidableEq, Repr

/-- MMA (R258, R259). -/
structure MmaOp where
  d : Idx
  a : Idx
  b : Idx
  c : Idx
  acc : Bool
  deriving DecidableEq, Repr

/-- TZERO and TLOAD (R260); `a` is 0 in TZERO. -/
structure TileOp where
  ext : Bool
  d : Idx
  a : Idx
  deriving DecidableEq, Repr

/-- TDRAIN (R258, R260). `nrows1` and `ncols1` are the counts minus 1. -/
structure TdrainOp where
  q : BitVec 3
  clr : Bool
  d : Idx
  rm : Round
  sat : Bool
  ty : Ty
  row0 : BitVec 8
  nrows1 : BitVec 8
  ncols1 : BitVec 8
  deriving DecidableEq, Repr

/-- QPOP (R261). -/
structure QpopOp where
  guard : Guard
  ext : Bool
  q : BitVec 3
  d : Idx
  deriving DecidableEq, Repr

/-- QSTORE (R262). -/
structure QstoreOp where
  ext : Bool
  q : BitVec 3
  a : Idx
  cnt : Opnd
  inScr : Bool
  deriving DecidableEq, Repr

/-- QSEND (R262). -/
structure QsendOp where
  ext : Bool
  q : BitVec 3
  d : Idx
  cnt : Opnd
  deriving DecidableEq, Repr

/-- QSTAT (R263). -/
structure QstatOp where
  ext : Bool
  q : BitVec 3
  d : Idx
  clr : Bool
  tile : BitVec 4
  deriving DecidableEq, Repr

/-- NPUT and NHASH (R286). -/
structure NputOp where
  node : Bool
  d : Idx
  a : Idx
  c : Idx
  region : BitVec 4
  deriving DecidableEq, Repr

/-- NGET, NPIN and NUNPIN (R288, R291). -/
structure NnameOp where
  ext : Bool
  d : Idx
  a : Idx
  region : BitVec 4
  deriving DecidableEq, Repr

/-- NROOT (R289). -/
structure NrootOp where
  ext : Bool
  scope : Scope
  order : Order
  mask : BitVec 4
  pin : Bool
  d : Idx
  a : Idx
  deriving DecidableEq, Repr

/-- NSWAP (R290). -/
structure NswapOp where
  scope : Scope
  order : Order
  mask : BitVec 4
  d : Idx
  a : Idx
  b : Idx
  c : Idx
  deriving DecidableEq, Repr

/-- NBIND and NUNBIND (R292, R294); `b` is 0 in NUNBIND. -/
structure NbindOp where
  ext : Bool
  d : Idx
  a : Idx
  b : Idx
  deriving DecidableEq, Repr

/-- NCOPY (R295). -/
structure NcopyOp where
  ext : Bool
  ch : BitVec 3
  d : Idx
  a : Idx
  dsp : CSpace
  region : BitVec 4
  deriving DecidableEq, Repr

/-- NSTAT's sub-operations (R296). -/
inductive NstatSub
  | count | pool | pins
  deriving DecidableEq, Repr

/-- NSTAT (R296). -/
structure NstatOp where
  ext : Bool
  d : Idx
  a : Idx
  sub : NstatSub
  region : BitVec 4
  deriving DecidableEq, Repr

/-- TRY (R313): MODE and the abort target. -/
structure TryOp where
  group : Bool
  target : BitVec 32
  deriving DecidableEq, Repr

/-- ABORT (R320). -/
structure AbortOp where
  guard : Guard
  ext : Bool
  code : BitVec 8
  deriving DecidableEq, Repr

/-- TSTAT's sub-operations (R321). -/
inductive TstatSub
  | code | state | mask
  deriving DecidableEq, Repr

/-- TSTAT (R321). -/
structure TstatOp where
  ext : Bool
  d : Idx
  sub : TstatSub
  deriving DecidableEq, Repr

/-- The special registers of R53, by name. -/
inductive Special
  | exec | live | laneid | quadid | grpid | blkx | blky | blkz | nblkx | nblky | nblkz | lidcore | lidclus
  | lmap | npass | clock | abortc | faultc | faultva | stkptr | stklim | dbase
  deriving DecidableEq, Repr

/-- SGET (R346). -/
structure SgetOp where
  guard : Guard
  ext : Bool
  u : Bool
  d : Idx
  sp : Special
  deriving DecidableEq, Repr

/-- SSET (R347). -/
structure SsetOp where
  ext : Bool
  sp : Special
  b : Opnd
  deriving DecidableEq, Repr

/-- PERF (R349). -/
structure PerfOp where
  ext : Bool
  clr : Bool
  d : Idx
  b : Opnd
  deriving DecidableEq, Repr

/-- `dbg.log` (R350). -/
structure DbgLogOp where
  ext : Bool
  a : Idx
  tag : BitVec 32
  deriving DecidableEq, Repr

/-- A command submitted through mailbox `mbox` (R368): the header's TAG, NOPW and NONCE, the operand words, and the
signature block of a signed command (R370). CODE is the row itself. -/
structure Cmd where
  mbox : Nat
  tag : BitVec 32
  nopw : Nat
  nonce : BitVec 64
  ops : List (BitVec 64)
  sig : List Byte
  deriving DecidableEq, Repr

/-- A Faine Link packet as a port receives it (R371): its header fields, its decoded payload, and whether the CRC and
every reserved and zero field passed the check. -/
structure Packet where
  dst : Nat
  src : Nat
  vl : Nat
  type : Nat
  job : Nat
  seq : BitVec 32
  len : Nat
  payload : List Byte
  ok : Bool
  /-- the payload bytes whose data is poisoned (R379) -/
  bad : List Nat := []
  deriving DecidableEq, Repr

/-- A SPRED pair, or a merged sum of pairs, at a switch (R228, R229): destination package, fabric job, window, index, W, the
128-bit addend, its contributions (source package, operation tag, pair count; one for a pair, several for a sum that an earlier switch
has merged), and whether it is in the last packet of an operation. -/
structure Spair where
  dst : Nat
  win : Nat
  index : Nat
  wexp : BitVec 16
  sum : BitVec 128
  contribs : List (Nat × Nat × Nat)
  job : Nat := 0
  last : Bool := false
  /-- on the overflow path (VL 4, R371) -/
  overflow : Bool := false
  deriving DecidableEq, Repr

/-- What drains a core (R28, R384, R386, R387). -/
inductive DrainWhy
  | fuse (lane : Nat)
  | test
  | quarantine
  deriving DecidableEq, Repr

/-- How an in-field test ends (R389). -/
inductive TestEnd
  | pass
  | laneFails (core lane : Nat)
  | otherFails
  deriving DecidableEq, Repr

/-- The outcome of one boot step (R393): the primary's success, and the alternate's. -/
structure BootTry where
  primaryOk : Bool
  alternateOk : Bool
  deriving DecidableEq, Repr

/-- One instruction, event or management command of spec/opcode_table.json, in the order of the table. -/
inductive Instr
  -- integer and address (R62)
  | iadd (f : Alu) | isub (f : Alu) | imul (f : Alu) | imulhi (f : Alu) | imad (f : Alu)
  | imin (f : Alu) | imax (f : Alu) | iabs (f : Alu)
  | and (f : Alu) | or (f : Alu) | xor (f : Alu) | andn (f : Alu)
  | shl (f : Alu) | shr (f : Alu) | sar (f : Alu) | rot (f : Alu)
  | popc (f : Alu) | clz (f : Alu) | brev (f : Alu) | bfe (f : Alu) | bfi (f : Alu)
  | icmp (f : Alu) | sel (f : Alu) | mov (f : Alu) | movi (f : Alu) | lea (f : Alu) | iaddc (f : Alu)
  | pset (f : PsetOp) | dp4 (f : Alu) | isad (f : Alu)
  -- floating point (R88)
  | fadd (f : Alu) | fsub (f : Alu) | fmul (f : Alu) | ffma (f : Alu) | fmin (f : Alu) | fmax (f : Alu)
  | frcp (f : Alu) | frsq (f : Alu) | fsqrt (f : Alu) | fex2 (f : Alu) | flg2 (f : Alu)
  | fsin (f : Alu) | fcos (f : Alu) | ftanh (f : Alu) | fcmp (f : Alu) | fclass (f : Alu)
  | frnd (f : Alu) | cvt (f : Alu) | fpack (f : Alu) | hpadd (f : Alu) | hpmul (f : Alu) | hpfma (f : Alu)
  -- packed integer and cross-lane (R109)
  | add2 (f : Alu) | sub2 (f : Alu) | max2 (f : Alu) | min2 (f : Alu)
  | sel2 (f : Alu) | cmp2 (f : Alu) | shl2 (f : Alu) | shr2 (f : Alu)
  | shfl (f : Alu) | qswp (f : Alu) | qbcast (f : Alu) | vote (f : Alu) | gred (f : Alu) | gscan (f : Alu)
  | lget (f : Alu) | lput (f : Alu) | matchOp (f : Alu)
  -- control (R136)
  | bra (f : BraOp) | brx (f : BrxOp) | call (f : CallOp) | callx (f : CallOp) | ret (f : RetOp)
  | endOp (f : GuardOp) | spawn (f : SpawnOp) | yield (f : PlainOp) | nop (f : PlainOp)
  | trap (f : TrapOp) | bkpt (f : TrapOp) | npbeg (f : PlainOp) | npend (f : PlainOp)
  -- memory (R181)
  | ld (f : MemOp) | st (f : MemOp) | lds (f : MemOp) | sts (f : MemOp) | ldc (f : MemOp)
  | ldp (f : MemOp) | stp (f : MemOp) | pref (f : PrefOp) | evict (f : EvictOp) | fence (f : FenceOp)
  -- atomics (R203)
  | atom (f : AtomOp) | atoms (f : AtomOp) | atomp (f : AtomOp) | acas (f : AtomOp) | acass (f : AtomOp)
  | red (f : AtomOp) | reds (f : AtomOp)
  -- barriers and waits (R198, R202)
  | barv (f : BarOp) | barw (f : BarOp) | bars (f : BarOp) | barq (f : BarOp) | waitc (f : WaitcOp)
  -- copy and fabric (R233)
  | cpy (f : CpyOp) | cpyx (f : CpyRecOp) | cpya (f : CpyRecOp) | cpyd (f : CpyRecOp)
  | chcfg (f : ChcfgOp) | wmark (f : WmarkOp) | yieldc (f : YieldcOp) | fsend (f : FabOp) | spred (f : FabOp)
  -- matrix (R258)
  | mma (f : MmaOp) | tzero (f : TileOp) | tload (f : TileOp) | tdrain (f : TdrainOp)
  | qpop (f : QpopOp) | qstore (f : QstoreOp) | qsend (f : QsendOp) | qstat (f : QstatOp)
  -- named lines (R283)
  | nput (f : NputOp) | nhash (f : NputOp) | nget (f : NnameOp) | nroot (f : NrootOp) | nswap (f : NswapOp)
  | npin (f : NnameOp) | nunpin (f : NnameOp) | nbind (f : NbindOp) | nunbind (f : NbindOp)
  | ncopy (f : NcopyOp) | nstat (f : NstatOp)
  -- speculation (R317)
  | tryOp (f : TryOp) | commit (f : PlainOp) | abort (f : AbortOp) | tstat (f : TstatOp)
  -- system (R345)
  | sget (f : SgetOp) | sset (f : SsetOp) | rte (f : PlainOp) | rteSkip (f : PlainOp) | rteEnd (f : PlainOp)
  | rteAbort (f : PlainOp) | perf (f : PerfOp) | dbgLog (f : DbgLogOp) | dbgHalt (f : PlainOp)
  -- launch and scheduling events
  | kick (fn q : Nat) (value : BitVec 32)
  | schedulingTick
  | launchFetch (ctx q : Nat)
  | launchWaitPoll (launch : Nat)
  | translationComplete (tr : Nat)
  | peerTranslationTimeout (tr : Nat)
  | reoptimise (tr : Nat)
  | blockPlace (launch : Nat)
  | blockRetire (block : Nat)
  | gridComplete (launch : Nat)
  -- group and engine events
  | barrierPhaseComplete (bar : Nat)
  | waitcResume (grp : Nat)
  | yieldResume (grp : Nat)
  | yieldcResume (grp : Nat)
  | chcfgResume (grp : Nat)
  | endEngineJoin (grp : Nat)
  | watermarkWaitEnd (grp : Nat)
  | copyOperationStart (block ch : Nat)
  | copyOperationComplete (op : Nat)
  | arrayCommandStart (cluster : Nat)
  | arrayCommandComplete (cluster : Nat)
  | qpopElementsReady (grp : Nat)
  | reclaim (child : Nat)
  | speculationConflict (grp : Nat)
  -- fault service, pre-emption
  | pageServiceResolve (grp pteAddr : Nat) (pte : BitVec 64)
  | pageServiceUnresolvable (grp : Nat)
  | faultStallTimeout (core : Nat)
  | nopreemptOverrun (grp : Nat)
  | preemptionRequest (cluster : Nat)
  | preemption (cluster : Nat)
  | unitResume (unit : Nat)
  | timeSliceExpiry (ctx : Nat)
  -- reliability, power, boot
  | coreDrain (core : Nat) (why : DrainWhy)
  | laneFuse (core lane : Nat)
  | inFieldTest (cluster : Nat)
  | inFieldTestEnd (cluster : Nat) (outcome : TestEnd)
  | scrub (stack : Nat) (fixed bad : List Nat)
  | phyRecalibration (stack : Nat)
  | powerArbiterTick (clocks : List Nat)
  | malletCoreFailover (mallet : Nat)
  | boot (tries : List BootTry)
  | bootStepTimeout (step : Nat)
  -- host and management commands
  | functionLevelReset (fn : Nat)
  | ctxCreate (c : Cmd) | ctxDestroy (c : Cmd) | ctxSet (c : Cmd) | ctxRedundant (c : Cmd)
  | queueEnable (c : Cmd) | queueDisable (c : Cmd) | queueClearErr (c : Cmd)
  | tlbInval (c : Cmd) | fgSet (c : Cmd)
  | domainCreate (c : Cmd) | domainGrow (c : Cmd) | domainDestroy (c : Cmd) | trdomSet (c : Cmd)
  | sliceTable (c : Cmd) | sliceAbort (c : Cmd)
  | keyAdd (c : Cmd) | keyRemove (c : Cmd) | counterSet (c : Cmd) | fwLoad (c : Cmd)
  | dbgAttach (c : Cmd) | dbgDetach (c : Cmd) | dbgResume (c : Cmd) | sideRead (c : Cmd)
  | eventRoute (c : Cmd) | clusterTest (c : Cmd) (outcome : TestEnd)
  | pbudgetWrite (value : BitVec 64)
  | registerWrite (offset : Nat) (value : BitVec 64)
  -- fabric
  | packetReceive (port : Nat) (p : Packet)
  | acknowledgementReceive (port vl : Nat) (seq : BitVec 32)
  | negativeAcknowledgement (port vl : Nat) (seq : BitVec 32) (reason : Nat)
  | replayBackoffExpiry (port vl : Nat)
  | linkAckTimeout (port vl : Nat)
  | portRetrain (port : Nat)
  | switchMerge (p : Spair)
  | mergeFlushInterval (entry : Nat)
  | sliceEnd (gang : Nat)
  | gangReady (gang slice member : Nat)
  | gangRunning (gang slice member : Nat)
  | gangSliceTimeout (gang : Nat)
  -- thermal, memory path, remaining host events
  | thermalLimit (die : Nat)
  | releaseComplete (core : Nat)
  | storeEntersView (grp : Nat)
  | reservedCommand (code : Nat) (c : Cmd)
  | msiXUnmask (fn vec : Nat)
  | srIovEnable (on : Bool)
  | journalClear (step : Nat)
  deriving DecidableEq, Repr

/-- Whether an instruction is a virtual instruction, with an encoding (R30, R41); the others are events and management commands. -/
def Instr.isVirtual : Instr → Bool
  | .iadd _ | .isub _ | .imul _ | .imulhi _ | .imad _ | .imin _ | .imax _ | .iabs _ | .and _ | .or _ | .xor _ | .andn _ | .shl _ | .shr _
  | .sar _ | .rot _ | .popc _ | .clz _ | .brev _ | .bfe _ | .bfi _ | .icmp _ | .sel _ | .mov _ | .movi _ | .lea _ | .iaddc _ | .pset _
  | .dp4 _ | .isad _ | .fadd _ | .fsub _ | .fmul _ | .ffma _ | .fmin _ | .fmax _ | .frcp _ | .frsq _ | .fsqrt _ | .fex2 _ | .flg2 _
  | .fsin _ | .fcos _ | .ftanh _ | .fcmp _ | .fclass _ | .frnd _ | .cvt _ | .fpack _ | .hpadd _ | .hpmul _ | .hpfma _ | .add2 _ | .sub2 _
  | .max2 _ | .min2 _ | .sel2 _ | .cmp2 _ | .shl2 _ | .shr2 _ | .shfl _ | .qswp _ | .qbcast _ | .vote _ | .gred _ | .gscan _ | .lget _
  | .lput _ | .matchOp _ | .bra _ | .brx _ | .call _ | .callx _ | .ret _ | .endOp _ | .spawn _ | .yield _ | .nop _ | .trap _ | .bkpt _
  | .npbeg _ | .npend _ | .ld _ | .st _ | .lds _ | .sts _ | .ldc _ | .ldp _ | .stp _ | .pref _ | .evict _ | .fence _ | .atom _ | .atoms _
  | .atomp _ | .acas _ | .acass _ | .red _ | .reds _ | .barv _ | .barw _ | .bars _ | .barq _ | .waitc _ | .cpy _ | .cpyx _ | .cpya _
  | .cpyd _ | .chcfg _ | .wmark _ | .yieldc _ | .fsend _ | .spred _ | .mma _ | .tzero _ | .tload _ | .tdrain _ | .qpop _ | .qstore _
  | .qsend _ | .qstat _ | .nput _ | .nhash _ | .nget _ | .nroot _ | .nswap _ | .npin _ | .nunpin _ | .nbind _ | .nunbind _ | .ncopy _
  | .nstat _ | .tryOp _ | .commit _ | .abort _ | .tstat _ | .sget _ | .sset _ | .rte _ | .rteSkip _ | .rteEnd _ | .rteAbort _ | .perf _
  | .dbgLog _ | .dbgHalt _ => true
  | .kick _ _ _ | .schedulingTick | .launchFetch _ _ | .launchWaitPoll _ | .translationComplete _ | .peerTranslationTimeout _
  | .reoptimise _ | .blockPlace _ | .blockRetire _ | .gridComplete _ | .barrierPhaseComplete _ | .waitcResume _ | .yieldResume _
  | .yieldcResume _ | .chcfgResume _ | .endEngineJoin _ | .watermarkWaitEnd _ | .copyOperationStart _ _ | .copyOperationComplete _
  | .arrayCommandStart _ | .arrayCommandComplete _ | .qpopElementsReady _ | .reclaim _ | .speculationConflict _ | .pageServiceResolve _ _ _
  | .pageServiceUnresolvable _ | .faultStallTimeout _ | .nopreemptOverrun _ | .preemptionRequest _ | .preemption _ | .unitResume _
  | .timeSliceExpiry _ | .coreDrain _ _ | .laneFuse _ _ | .inFieldTest _ | .inFieldTestEnd _ _ | .scrub _ _ _ | .phyRecalibration _
  | .powerArbiterTick _ | .malletCoreFailover _ | .boot _ | .bootStepTimeout _ | .functionLevelReset _ | .ctxCreate _ | .ctxDestroy _
  | .ctxSet _ | .ctxRedundant _ | .queueEnable _ | .queueDisable _ | .queueClearErr _ | .tlbInval _ | .fgSet _ | .domainCreate _
  | .domainGrow _ | .domainDestroy _ | .trdomSet _ | .sliceTable _ | .sliceAbort _ | .keyAdd _ | .keyRemove _ | .counterSet _ | .fwLoad _
  | .dbgAttach _ | .dbgDetach _ | .dbgResume _ | .sideRead _ | .eventRoute _ | .clusterTest _ _ | .pbudgetWrite _ | .registerWrite _ _
  | .packetReceive _ _ | .acknowledgementReceive _ _ _ | .negativeAcknowledgement _ _ _ _ | .replayBackoffExpiry _ _ | .linkAckTimeout _ _
  | .portRetrain _ | .switchMerge _ | .mergeFlushInterval _ | .sliceEnd _ | .gangReady _ _ _ | .gangRunning _ _ _ | .gangSliceTimeout _
  | .thermalLimit _ | .releaseComplete _ | .storeEntersView _ | .reservedCommand _ _ | .msiXUnmask _ _ | .srIovEnable _ | .journalClear _ => false

end Sys2Proof
end

