-- ==== Sys2Proof/WellFormed.lean ====
section
/-! DEFINITION. Which instructions are well formed: the checks of the encoding tables that need the word alone (R31, R32,
R33, R35, R43, R44, R62, R88, R109, R136, R181, R203, R233, R258, R283, R317, R345). What needs the kernel object (a
branch target, the tile count, the group width) is checked at load, in Machine/Load.lean. -/

namespace Sys2Proof

/-- Width in bits of a type (R9, R36); a block format has the width of one element. -/
def Ty.width : Ty → Nat
  | .i8 | .n8 | .e4m3 | .e5m2 | .bx8 => 8
  | .i16 | .n16 | .f16 | .bf16 => 16
  | .i32 | .n32 | .b32 | .f32 | .f16x2 | .bf16x2 | .i16x2 | .n16x2 => 32
  | .i64 | .n64 | .b64 => 64
  | .bx4 => 4

/-- Whether a type names a pair of vector registers (R9). -/
def Ty.wide (t : Ty) : Bool := t.width == 64

/-- Whether a type is a two's-complement integer (R9). -/
def Ty.signed : Ty → Bool
  | .i8 | .i16 | .i32 | .i64 | .i16x2 => true
  | _ => false

/-- R44: G = 15 with GN = 1 has no meaning. -/
def Guard.ok (g : Guard) : Bool := !(g.reg == 15 && g.neg)

/-- The guard of a uniform entry (R43). -/
def Guard.uniform (g : Guard) : Bool := g.reg == 15 && !g.neg

/-- R35: a pair may start at 0 to 16,381 or 16,383. -/
def pairOk (i : Idx) : Bool := i != 16382

/-- R35: predicate indices are 0 to 15. -/
def predOk (i : Idx) : Bool := decide (i.toNat ≤ 15)

/-- What a D or A field of the classes 0x00 to 0x5F names (R62, R88, R109). -/
inductive RegKind
  | none    -- unused, must be zero
  | vec     -- a vector register, or pair for a 64-bit type
  | vec32   -- one vector register
  | vec64   -- a vector pair
  | pred    -- a predicate, in both forms
  | predU   -- a predicate, or a scalar register if U = 1
  | scal    -- a scalar register
  | byDst   -- CVT's destination, by M8.SUB
  | voteD   -- VOTE's destination
  | voteA   -- VOTE's source
  deriving DecidableEq, Repr

/-- What the B operand of these classes may be. -/
inductive BKind
  | none | val | val32 | val64 | immOnly | lane
  deriving DecidableEq, Repr

/-- What the C operand of these classes may be. -/
inductive CKind
  | none | val | pred | predU | pack
  deriving DecidableEq, Repr

/-- One row of the encoding tables of R62, R88 and R109. -/
structure AluRow where
  tys : List Ty
  uOk : Bool := true
  satOk : Bool := false
  rmOk : Bool := false
  subs : List Nat := [0]
  d : RegKind := .vec
  a : RegKind := .vec
  b : BKind := .val
  c : CKind := .none
  /-- an immediate B needs IMM32 (R32) -/
  fp : Bool := false

/-- The type codes of R36 in order. -/
def Ty.all : List Ty :=
  [.i8, .i16, .i32, .i64, .n8, .n16, .n32, .n64, .b32, .b64, .f32, .f16, .bf16, .e4m3, .e5m2, .bx8, .bx4,
   .f16x2, .bf16x2, .i16x2, .n16x2]

/-- The type of a code of R36; codes 0x15 to 0x1F are reserved. -/
def Ty.ofCode (n : Nat) : Option Ty := Ty.all[n]?

/-- The code of a type (R36). -/
def Ty.code : Ty → BitVec 5
  | .i8 => 0 | .i16 => 1 | .i32 => 2 | .i64 => 3 | .n8 => 4 | .n16 => 5 | .n32 => 6 | .n64 => 7
  | .b32 => 8 | .b64 => 9 | .f32 => 10 | .f16 => 11 | .bf16 => 12 | .e4m3 => 13 | .e5m2 => 14
  | .bx8 => 15 | .bx4 => 16 | .f16x2 => 17 | .bf16x2 => 18 | .i16x2 => 19 | .n16x2 => 20

/-- The pairs CVT converts (R95): source, destination. -/
def cvtPairOk (src dst : Ty) : Bool :=
  match src with
  | .f32 => [.f16, .bf16, .e4m3, .e5m2, .i32, .n32, .i64, .n64].contains dst
  | .f16 => [.f32, .bf16, .e4m3, .e5m2, .i32, .n32, .i64, .n64].contains dst
  | .bf16 => [.f32, .f16, .e4m3, .e5m2, .i32, .n32, .i64, .n64].contains dst
  | .e4m3 => [.f32, .f16, .bf16, .e5m2].contains dst
  | .e5m2 => [.f32, .f16, .bf16, .e4m3].contains dst
  | .i32 | .n32 | .i64 | .n64 => [.f32, .f16, .bf16].contains dst
  | _ => false

def tyInt : List Ty := [.i32, .n32, .i64, .n64]
def tyBits : List Ty := [.b32, .b64]
def tyFloat : List Ty := [.f32, .f16, .bf16]
def tyPacked : List Ty := [.i16x2, .n16x2]

/-- The rows of R62. -/
def rowArith : AluRow := { tys := tyInt, satOk := true }
def rowMulhi : AluRow := { tys := tyInt }
def rowMad : AluRow := { tys := tyInt, satOk := true, c := .val }
def rowAbs : AluRow := { tys := [.i32, .i64], satOk := true, b := .none }
def rowBits : AluRow := { tys := tyBits }
def rowShift : AluRow := { tys := tyBits, b := .val32 }
def rowSar : AluRow := { tys := [.i32, .i64], b := .val32 }
def rowCount : AluRow := { tys := tyBits, d := .vec32, b := .none }
def rowBrev : AluRow := { tys := tyBits, b := .none }
def rowBfe : AluRow := { tys := tyInt, b := .val32 }
def rowBfi : AluRow := { tys := tyBits, b := .val32, c := .val }
def rowIcmp : AluRow := { tys := tyInt, d := .predU, subs := [0, 1, 2, 3, 4, 5] }
def rowSel : AluRow := { tys := tyBits, c := .predU }
def rowMov : AluRow := { tys := tyBits, a := .none }
def rowMovi : AluRow := { tys := [.b64], a := .none, b := .immOnly, subs := [0, 1] }
def rowLea : AluRow := { tys := [.i32, .n32], d := .vec64, a := .vec32, b := .val64, subs := List.range 32 }
def rowIaddc : AluRow := { tys := [.n32, .n64], c := .pred, subs := List.range 16 }
def rowDp4 : AluRow := { tys := [.i8, .n8], satOk := true, d := .vec32, a := .vec32, b := .val32, c := .val }
def rowIsad : AluRow := { tys := [.n8, .i32, .n32], satOk := true, d := .vec32, a := .vec32, b := .val32, c := .val }
/-- The rows of R88. -/
def rowFadd : AluRow := { tys := tyFloat, satOk := true, rmOk := true, fp := true }
def rowFfma : AluRow := { tys := tyFloat, satOk := true, rmOk := true, c := .val, fp := true }
def rowFmin : AluRow := { tys := tyFloat, subs := [0, 1], fp := true }
def rowApprox : AluRow := { tys := [.f32], b := .none }
def rowApproxSat : AluRow := { tys := [.f32], satOk := true, b := .none }
def rowFsqrt : AluRow := { tys := [.f32], rmOk := true, b := .none }
def rowFcmp : AluRow :=
  { tys := tyFloat, d := .predU, subs := [0, 1, 2, 3, 4, 5, 8, 9, 10, 11, 12, 13, 14, 15], fp := true }
def rowFclass : AluRow := { tys := tyFloat, d := .predU, b := .val32 }
def rowFrnd : AluRow := { tys := tyFloat, rmOk := true, b := .none }
def rowCvt : AluRow :=
  { tys := [.i32, .n32, .i64, .n64, .f32, .f16, .bf16, .e4m3, .e5m2], satOk := true, rmOk := true, d := .byDst,
    b := .none, subs := List.range 32 }
def rowFpack : AluRow :=
  { tys := [.f16x2, .bf16x2, .e4m3, .e5m2], uOk := false, satOk := true, rmOk := true, c := .pack, subs := [0, 1],
    fp := true }
def rowHp : AluRow := { tys := [.f16x2, .bf16x2], uOk := false, satOk := true, rmOk := true, fp := true }
def rowHpfma : AluRow :=
  { tys := [.f16x2, .bf16x2], uOk := false, satOk := true, rmOk := true, c := .val, fp := true }
/-- The rows of R109. -/
def rowAdd2 : AluRow := { tys := tyPacked, uOk := false, satOk := true, fp := true }
def rowPacked : AluRow := { tys := tyPacked, uOk := false, fp := true }
def rowSel2 : AluRow := { tys := tyPacked, uOk := false, c := .val, fp := true }
def rowCmp2 : AluRow := { tys := tyPacked, uOk := false, subs := [0, 1, 2, 3, 4, 5], fp := true }
def rowShfl : AluRow := { tys := tyBits, uOk := false, b := .val32, subs := [0, 1, 2, 3] }
def rowQswp : AluRow := { tys := tyBits, uOk := false, b := .none, subs := [0, 1, 2] }
def rowQbcast : AluRow := { tys := tyBits, uOk := false, b := .none, subs := [0, 1, 2, 3] }
def rowVote : AluRow := { tys := [.b32], uOk := false, d := .voteD, a := .voteA, b := .none, subs := [0, 1, 2, 3] }
def rowGred : AluRow :=
  { tys := [.i32, .n32, .f32, .b32], uOk := false, satOk := true, d := .scal, a := .vec32, b := .none,
    subs := [0, 1, 2, 3, 4, 5] }
def rowGscan : AluRow :=
  { tys := [.i32, .n32, .f32, .b32], uOk := false, satOk := true, d := .vec32, a := .vec32, b := .none,
    subs := [0, 1, 2, 3, 4, 5, 8, 9, 10, 11, 12, 13] }
def rowLget : AluRow := { tys := tyBits, uOk := false, d := .scal, b := .lane }
def rowLput : AluRow := { tys := tyBits, uOk := false, a := .scal, b := .lane }
def rowMatch : AluRow := { tys := tyBits, uOk := false, d := .vec32, b := .none, subs := [0, 1] }

/-- Whether a D or A index suits what the field names. -/
def RegKind.ok (k : RegKind) (f : Alu) (i : Idx) : Bool :=
  match k with
  | .none => i == 0
  | .vec => f.u || !f.ty.wide || pairOk i
  | .vec32 | .scal => true
  | .vec64 => f.u || pairOk i
  | .pred => predOk i
  | .predU => f.u || predOk i
  | .byDst => f.u || !((Ty.ofCode f.sub.toNat).any Ty.wide) || pairOk i
  | .voteD => f.sub == 2 || predOk i
  | .voteA => f.sub == 3 || predOk i

/-- Whether a value operand suits a width: a pair index, a broadcast in the uniform form (R35, R43). -/
def Opnd.valOk (o : Opnd) (u wide : Bool) : Bool :=
  match o with
  | .reg i => u || !wide || pairOk i
  | .scal _ => !u
  | .imm14 _ | .imm32 _ | .slot _ => true

/-- Whether the B operand suits its kind (R31, R32, R56, R62, R88, R109). -/
def BKind.ok (k : BKind) (r : AluRow) (f : Alu) : Bool :=
  (match f.b with
   | .imm14 _ => !f.ext && !r.fp
   | .imm32 v => f.ext && (!r.fp || !(f.ty == .f16 || f.ty == .bf16) || decide (v.toNat < 65536))
   | _ => true) &&
  match k with
  | .none => f.b == .reg 0
  | .val => f.b.valOk f.u f.ty.wide
  | .val32 => f.b.valOk f.u false
  | .val64 => f.b.valOk f.u true
  | .immOnly => match f.b with | .imm32 _ => true | _ => false
  | .lane => match f.b with
    | .scal _ => false
    | .imm14 v => decide (v.toNat < 32)
    | .imm32 v => decide (v.toNat < 32)
    | .reg _ | .slot _ => true

/-- Whether the C operand suits its kind; it is never an immediate (R31, R56, R62, R88). -/
def CKind.ok (k : CKind) (f : Alu) : Bool :=
  let value := match f.c with | .imm14 _ | .imm32 _ => false | o => o.valOk f.u f.ty.wide
  match k with
  | .none => f.c == .reg 0
  | .val => f.ext && value
  | .pred => f.ext && (match f.c with | .reg i => predOk i | _ => false)
  | .predU => f.ext && (match f.c with | .reg i => f.u || predOk i | _ => false)
  | .pack => if f.ty == .e4m3 || f.ty == .e5m2 then f.ext && value else f.c == .reg 0 && f.sub == 0

/-- GRED and GSCAN pair operations with types and SAT (R109). -/
def redOk (f : Alu) : Bool :=
  let op := f.sub.toNat % 8
  (if op ≤ 2 then f.ty != .b32 else f.ty == .b32) && (!f.sat || (op == 0 && f.ty != .f32))

/-- Whether the fields suit the row of their entry. -/
def AluRow.ok (r : AluRow) (f : Alu) : Bool :=
  f.guard.ok && (!f.u || f.guard.uniform) && (r.uOk || !f.u) && r.tys.contains f.ty && (r.satOk || !f.sat)
  && (r.rmOk || f.rm == .rn) && r.subs.contains f.sub.toNat
  && (f.ext || (f.rm == .rn && !f.sat && f.sub == 0))
  && r.d.ok f f.d && r.a.ok f f.a && r.b.ok r f && r.c.ok f

/-- R136: a register range of `n` registers; a zero count needs a zero field. -/
def rangeOk (first : Idx) (n : Nat) : Bool :=
  if n = 0 then first == 0 else decide (first.toNat + n ≤ 16384)

/-- R203, R283: a range of scalar registers stays below 16,382; a single result may be 16,383. -/
def nrange (first : Idx) (n : Nat) : Bool := decide (first.toNat + n ≤ 16382)
def nresult (first : Idx) : Bool := nrange first 1 || first == 16383

/-- R203: an order has a storage mask unless it is relaxed. -/
def orderOk (o : Order) (m : BitVec 4) : Bool := (o == .relaxed) == (m == 0)

/-- The memory operand of an entry with or without an extension word (R40). -/
def AddrForm.ok (f : AddrForm) (ext : Bool) : Bool :=
  match f with
  | .vec _ sc off | .scal _ sc off => ext || (sc == 0 && off == 0)
  | .off14 _ => !ext
  | .off32 _ _ => ext

/-- SU takes no vector base and no vector index (R182). -/
def AddrForm.uniformOk (f : AddrForm) : Bool := match f with | .vec _ _ _ => false | _ => true

/-- Where a memory entry's vector base is a pair (R182). -/
def baseOk (vb pair : Bool) (a : Idx) : Bool := !vb || !pair || pairOk a

/-- R181, R182: `store` for ST, STS and STP, `pol` where a policy is allowed, `pair` where a vector base is a pair. -/
def MemOp.ok (f : MemOp) (store pol pair : Bool) : Bool :=
  f.guard.ok && f.addr.ok f.ext && (f.ext || (!f.vb && !f.su)) && (pol || f.pol == .near)
  && (!store || !(f.acc == .i8 || f.acc == .i16))
  && (if f.su then !f.vb && f.addr.uniformOk && f.guard.uniform else f.acc != .b64 || pairOk f.d)
  && baseOk f.vb pair f.a

def PrefOp.ok (f : PrefOp) : Bool :=
  f.guard.ok && f.addr.ok f.ext && (f.ext || !f.vb) && baseOk f.vb true f.a

def EvictOp.ok : EvictOp → Bool
  | .line g ext l2 vb a addr => g.ok && addr.ok ext && (ext || (!vb && !l2)) && baseOk vb true a
  | .l1all => true

def FenceOp.ok (f : FenceOp) : Bool := f.order != .relaxed && f.mask != 0

/-- The types each atomic operation takes (R204). -/
def AOp.tyOk (o : AOp) (t : Ty) : Bool :=
  match o with
  | .add => [.i32, .n32, .i64, .n64, .f32, .f16x2, .bf16x2].contains t
  | .min | .max => [.i32, .n32, .i64, .n64, .f32].contains t
  | .and | .or | .xor | .exch => [.b32, .b64].contains t
  | .inc | .dec => t == .n32

/-- R203, R204: a D of 16,383 alone reads zero and discards the old value, where D names one register, or a pair as R35 allows; the range
of an ACAS or ACASS, which takes the new value too, may not (DEDUCED, log entry 62). `cas` for ACAS and ACASS, `red` for RED and REDS, `peerSel` where PS may be set, `pair` where a vector
base is a pair. -/
def AtomOp.ok (f : AtomOp) (cas red peerSel pair : Bool) : Bool :=
  let n := (if cas then 2 else 1) * (if f.su || !f.ty.wide then 1 else 2)
  f.guard.ok && f.addr.ok true && (match f.addr with | .off14 _ => false | _ => true)
  && orderOk f.order f.mask
  && (!f.su || (!f.vb && f.addr.uniformOk && f.guard.uniform))
  && (peerSel || !f.ps)
  && (if cas then f.aop == .add && (f.ty == .b32 || f.ty == .b64) else f.aop.tyOk f.ty)
  && (!red || f.aop != .exch)
  && (nrange f.d n || (!cas && f.d == 16383))
  && nrange f.a (if f.vb && (pair || f.ps) then 2 else 1)
  && (match f.addr with | .vec i _ _ | .scal i _ _ => nrange i 1 | _ => true)

/-- R191: barrier numbers by scope. -/
def BScope.numbers : BScope → Nat
  | .blk => 16 | .clu => 4 | .grid => 2

def BarOp.ok (f : BarOp) (dUsed aUsed : Bool) : Bool :=
  f.mask != 0 && decide (f.num.toNat < f.scope.numbers) && (dUsed || f.d == 0) && (aUsed || f.a == 0)

/-- A count or length: a scalar register, or IMM32 with X = 1 (R233, R258). -/
def Opnd.lenOk (o : Opnd) (ext : Bool) (max : Nat) : Bool :=
  match o with
  | .reg _ => true
  | .imm32 v => ext && decide (v.toNat ≤ max)
  | _ => false

def CpyOp.ok (f : CpyOp) : Bool :=
  f.ssp != .bstore && f.len.lenOk f.ext 0xFFFFFFFF && (f.ext || (f.dsp == .glob && f.ssp == .glob))

def CpyRecOp.ok (f : CpyRecOp) (clrOk : Bool) : Bool := (clrOk || !f.clr) && (f.ext || (!f.inScr && !f.clr))

def ChcfgOp.ok (f : ChcfgOp) : Bool :=
  f.sp != .peer && decide (-192 ≤ f.w.toInt ∧ f.w.toInt ≤ 192) && f.ext

def WmarkOp.ok (f : WmarkOp) : Bool := f.ext || !f.clr

def FabOp.ok (f : FabOp) : Bool := f.len.lenOk f.ext 0xFFFFFFFF && (f.ext || !f.inScr)

/-- R258: a scalar pair may not start at 16,382 or 16,383. -/
def spairOk (i : Idx) : Bool := decide (i.toNat < 16382)

def MmaOp.ok (f : MmaOp) : Bool := decide (f.d.toNat < 16) && spairOk f.a && spairOk f.b

def TileOp.ok (f : TileOp) (load : Bool) : Bool :=
  decide (f.d.toNat < 16) && (if load then spairOk f.a else f.a == 0)

def TdrainOp.ok (f : TdrainOp) : Bool :=
  decide (f.d.toNat < 16) && [.f32, .bf16, .e4m3].contains f.ty && !(f.ty == .f32 && f.sat)
  && decide (f.row0.toNat + f.nrows1.toNat + 1 ≤ 128) && decide (f.ncols1.toNat ≤ 127)

def QstoreOp.ok (f : QstoreOp) : Bool := f.cnt.lenOk f.ext 65536 && (f.ext || !f.inScr)
def QsendOp.ok (f : QsendOp) : Bool := f.cnt.lenOk f.ext 65536
def QstatOp.ok (f : QstatOp) : Bool := f.ext

def NputOp.ok (f : NputOp) : Bool := nrange f.d 3 && nrange f.a 1 && predOk f.c
/-- NGET's D is an offset source; NPIN's and NUNPIN's D is a status. -/
def NnameOp.ok (f : NnameOp) (status : Bool) : Bool :=
  (if status then nresult f.d else nrange f.d 1) && nrange f.a 2 && f.ext
def NrootOp.ok (f : NrootOp) : Bool :=
  orderOk f.order f.mask && nrange f.d 4 && nrange f.a 1 && (f.ext || (!f.pin && f.mask == 0))
def NswapOp.ok (f : NswapOp) : Bool :=
  orderOk f.order f.mask && nrange f.d 4 && nrange f.a 1 && nrange f.b 4 && predOk f.c
def NbindOp.ok (f : NbindOp) (bind : Bool) : Bool :=
  nresult f.d && nrange f.a 1 && (if bind then nrange f.b 1 else f.b == 0)
def NcopyOp.ok (f : NcopyOp) : Bool :=
  nrange f.d 1 && nrange f.a 3 && f.dsp != .bstore && f.ext
def NstatOp.ok (f : NstatOp) : Bool :=
  nresult f.d && (if f.sub == .pool then f.a == 0 else nrange f.a 2) && f.ext

/-- The special registers SSET may name (R53). -/
def Special.writable : Special → Bool
  | .exec | .live | .stkptr => true
  | _ => false

/-- The special registers of 64 bits (R53). -/
def Special.wide : Special → Bool
  | .lmap | .clock | .faultva | .stkptr | .stklim | .dbase => true
  | _ => false

/-- The special registers with a value for each lane (R53). -/
def Special.perLane : Special → Bool
  | .laneid | .quadid => true
  | _ => false

def SgetOp.ok (f : SgetOp) : Bool :=
  f.guard.ok && (if f.u then f.guard.uniform && !f.sp.perLane else !f.sp.wide || pairOk f.d)

def SsetOp.ok (f : SsetOp) : Bool :=
  f.sp.writable && (match f.b with
    | .reg _ | .slot _ => true
    | .imm14 _ => !f.ext
    | .imm32 _ => f.ext
    | .scal _ => false)

def PerfOp.ok (f : PerfOp) : Bool :=
  match f.b with
  | .reg _ => true
  | .imm14 v => !f.ext && decide (v.toNat ≤ 11)
  | .imm32 v => f.ext && v == 0
  | _ => false

/-- Well-formedness of one instruction. An event's numbers lie within the package's counts (R15, R352, R368). -/
def Instr.wf : Instr → Bool
  | .iadd f | .isub f | .imul f => rowArith.ok f
  | .imulhi f | .imin f | .imax f => rowMulhi.ok f
  | .imad f => rowMad.ok f
  | .iabs f => rowAbs.ok f
  | .and f | .or f | .xor f | .andn f => rowBits.ok f
  | .shl f | .shr f | .rot f => rowShift.ok f
  | .sar f => rowSar.ok f
  | .popc f | .clz f => rowCount.ok f
  | .brev f => rowBrev.ok f
  | .bfe f => rowBfe.ok f
  | .bfi f => rowBfi.ok f
  | .icmp f => rowIcmp.ok f
  | .sel f => rowSel.ok f
  | .mov f => rowMov.ok f
  | .movi f => rowMovi.ok f
  | .lea f => rowLea.ok f
  | .iaddc f => rowIaddc.ok f
  | .pset f => f.guard.ok && predOk f.d && predOk f.a && predOk f.b && predOk f.c
  | .dp4 f => rowDp4.ok f
  | .isad f => rowIsad.ok f
  | .fadd f | .fsub f | .fmul f => rowFadd.ok f
  | .ffma f => rowFfma.ok f
  | .fmin f | .fmax f => rowFmin.ok f
  | .frcp f | .frsq f | .fex2 f => rowApproxSat.ok f
  | .fsqrt f => rowFsqrt.ok f
  | .flg2 f | .fsin f | .fcos f | .ftanh f => rowApprox.ok f
  | .fcmp f => rowFcmp.ok f
  | .fclass f => rowFclass.ok f
  | .frnd f => rowFrnd.ok f
  | .cvt f => rowCvt.ok f && (Ty.ofCode f.sub.toNat).any (cvtPairOk f.ty)
  | .fpack f => rowFpack.ok f
  | .hpadd f | .hpmul f => rowHp.ok f
  | .hpfma f => rowHpfma.ok f
  | .add2 f | .sub2 f => rowAdd2.ok f
  | .max2 f | .min2 f | .shl2 f | .shr2 f => rowPacked.ok f
  | .sel2 f => rowSel2.ok f
  | .cmp2 f => rowCmp2.ok f
  | .shfl f => rowShfl.ok f
  | .qswp f => rowQswp.ok f
  | .qbcast f => rowQbcast.ok f
  | .vote f => rowVote.ok f
  | .gred f => rowGred.ok f && redOk f
  | .gscan f => rowGscan.ok f && redOk f
  | .lget f => rowLget.ok f && f.guard.uniform
  | .lput f => rowLput.ok f && f.guard.uniform
  | .matchOp f => rowMatch.ok f
  | .bra f => f.guard.ok
  | .brx f => f.guard.ok
  | .call f => f.guard.ok && rangeOk f.d f.nr.toNat && rangeOk f.a f.na.toNat && rangeOk f.b f.ns.toNat
      && rangeOk f.c f.nsr.toNat
  | .callx f => f.guard.ok && rangeOk f.d f.nr.toNat && rangeOk f.a f.na.toNat && rangeOk f.b f.ns.toNat
      && rangeOk f.c f.nsr.toNat && decide (f.imm.toNat < 16384)
  | .ret f => f.guard.ok && rangeOk f.a f.nr.toNat && rangeOk f.b f.nsr.toNat && (f.ext || f.nr == 0)
  | .endOp f => f.guard.ok
  | .spawn f => match f.b with | .reg _ | .imm14 _ | .slot _ => true | _ => false
  | .trap f | .bkpt f => f.guard.ok && (f.ext || f.code == 0)
  | .yield _ | .nop _ | .npbeg _ | .npend _ | .commit _ => true
  | .ld f => f.ok false true true
  | .st f => f.ok true true true
  | .lds f => f.ok false false false
  | .sts f => f.ok true false false
  | .ldc f => f.ok false false false
  | .ldp f => f.ok false false true
  | .stp f => f.ok true false true
  | .pref f => f.ok
  | .evict f => f.ok
  | .fence f => f.ok
  | .atom f => f.ok false false false true
  | .atoms f => f.ok false false false false
  | .atomp f => f.ok false false false true
  | .acas f => f.ok true false false true
  | .acass f => f.ok true false true false
  | .red f => f.ok false true false true
  | .reds f => f.ok false true true false
  | .barv f => f.ok true false
  | .barw f => f.ok false true
  | .bars f => f.ok false false
  | .barq f => f.ok true true
  | .waitc _ => true
  | .cpy f => f.ok
  | .cpyx f | .cpya f => f.ok false
  | .cpyd f => f.ok true
  | .chcfg f => f.ok
  | .wmark f => f.ok
  | .yieldc _ => true
  | .fsend f | .spred f => f.ok
  | .mma f => f.ok
  | .tzero f => f.ok false
  | .tload f => f.ok true
  | .tdrain f => f.ok
  | .qpop f => f.guard.ok
  | .qstore f => f.ok
  | .qsend f => f.ok
  | .qstat f => f.ok
  | .nput f | .nhash f => f.ok
  | .nget f => f.ok false
  | .nroot f => f.ok
  | .nswap f => f.ok
  | .npin f | .nunpin f => f.ok true
  | .nbind f => f.ok true
  | .nunbind f => f.ok false
  | .ncopy f => f.ok
  | .nstat f => f.ok
  | .tryOp _ => true
  | .abort f => f.guard.ok && (f.ext || f.code == 0)
  | .tstat f => f.ext || f.sub == .code
  | .sget f => f.ok
  | .sset f => f.ok
  | .rte _ | .rteSkip _ | .rteEnd _ | .rteAbort _ | .dbgHalt _ => true
  | .perf f => f.ok
  | .dbgLog f => f.ext
  | .kick fn q _ => decide (fn ≤ 64 ∧ q < 512)
  | .launchFetch ctx q => decide (ctx < 64 ∧ q < 512)
  | .copyOperationStart _ ch => decide (ch < 8)
  | .arrayCommandStart c | .arrayCommandComplete c | .preemptionRequest c | .preemption c | .inFieldTest c
  | .inFieldTestEnd c _ => decide (c < 128)
  | .faultStallTimeout c | .coreDrain c _ | .releaseComplete c => decide (c < 512)
  | .laneFuse c l => decide (c < 512 ∧ l < 64)
  | .timeSliceExpiry c => decide (c < 64)
  | .scrub k _ _ | .phyRecalibration k => decide (k < 8)
  | .malletCoreFailover m => decide (m < 16)
  | .bootStepTimeout n | .journalClear n => decide (1 ≤ n ∧ n ≤ 8)
  | .functionLevelReset fn => decide (fn ≤ 64)
  | .msiXUnmask fn v => decide (fn ≤ 64 ∧ v < 128)
  | .ctxCreate c | .ctxDestroy c | .ctxSet c | .ctxRedundant c | .queueEnable c | .queueDisable c | .queueClearErr c
  | .tlbInval c | .fgSet c | .domainCreate c | .domainGrow c | .domainDestroy c | .trdomSet c | .sliceTable c
  | .sliceAbort c | .keyAdd c | .keyRemove c | .counterSet c | .fwLoad c | .dbgAttach c | .dbgDetach c
  | .dbgResume c | .sideRead c | .eventRoute c | .clusterTest c _ | .reservedCommand _ c => decide (c.mbox < 16)
  | .packetReceive p _ | .portRetrain p => decide (p < 24)
  | .acknowledgementReceive p vl _ | .negativeAcknowledgement p vl _ _ | .replayBackoffExpiry p vl
  | .linkAckTimeout p vl => decide (p < 24 ∧ vl < 6)
  | .thermalLimit d => decide (d < 4)
  | .schedulingTick | .launchWaitPoll _ | .translationComplete _ | .peerTranslationTimeout _ | .reoptimise _
  | .blockPlace _ | .blockRetire _ | .gridComplete _ | .barrierPhaseComplete _ | .waitcResume _ | .yieldResume _
  | .yieldcResume _ | .chcfgResume _ | .endEngineJoin _ | .watermarkWaitEnd _ | .copyOperationComplete _
  | .qpopElementsReady _ | .reclaim _ | .speculationConflict _ | .pageServiceResolve _ _ _
  | .pageServiceUnresolvable _ | .nopreemptOverrun _ | .unitResume _ | .powerArbiterTick _ | .boot _
  | .pbudgetWrite _ | .registerWrite _ _ | .switchMerge _ | .mergeFlushInterval _ | .sliceEnd _ | .gangReady _ _ _
  | .gangRunning _ _ _ | .gangSliceTimeout _ | .storeEntersView _ | .srIovEnable _ => true

end Sys2Proof
end

