-- ==== Sys2Proof/Decode.lean ====
section
/-! DEFINITION. The decoder: a base word and the word after it to an instruction, or a refusal by name (R30 to R45); and
the encoder, written from the same tables. -/

namespace Sys2Proof

/-- Why a word is not an instruction (R45). -/
inductive DecodeError
  | reservedOpcode      -- R45 item 1
  | badFunction         -- R45 item 2: a reserved type, scope, order, policy or sub-operation
  | mustBeZero          -- R45 item 3
  | badOperand          -- R45 item 4
  | badGuard            -- R45 item 5
  | missingExtension    -- R45 item 6, or an entry that needs X = 1
  deriving DecidableEq, Repr

/-- The fields of a base word and its extension word (R30). With X = 0 every extension field is 0. -/
structure Raw where
  op : BitVec 8
  g : BitVec 4
  gn : Bool
  x : Bool
  fn : BitVec 6
  d : Idx
  a : Idx
  b : Idx
  bk : BitVec 2
  c : Idx
  ck : BitVec 2
  m8 : BitVec 8
  mbz : BitVec 8
  imm : BitVec 32
  deriving DecidableEq, Repr

/-- Bits hi:lo of a word, as the spec writes them (R2). -/
def bitsOf (w : DWord) (hi lo : Nat) : BitVec (hi - lo + 1) := w.extractLsb' lo (hi - lo + 1)

/-- The fields of a base word `w` and the word `e` after it (R30). -/
def Raw.ofWords (w e : DWord) : Raw :=
  let x := w.getLsbD 50
  let e := if x then e else 0
  { op := bitsOf w 63 56, g := bitsOf w 55 52, gn := w.getLsbD 51, x := x, fn := bitsOf w 49 44,
    d := bitsOf w 43 30, a := bitsOf w 29 16, b := bitsOf w 15 2, bk := bitsOf w 1 0,
    c := bitsOf e 63 50, ck := bitsOf e 49 48, m8 := bitsOf e 47 40, mbz := bitsOf e 39 32, imm := bitsOf e 31 0 }

/-- The base word of R30. -/
def Raw.baseWord (r : Raw) : DWord :=
  r.op ++ r.g ++ BitVec.ofBool r.gn ++ BitVec.ofBool r.x ++ r.fn ++ r.d ++ r.a ++ r.b ++ r.bk

/-- The extension word of R30. -/
def Raw.extWord (r : Raw) : DWord := r.c ++ r.ck ++ r.m8 ++ r.mbz ++ r.imm

/-- The words of an instruction, the base word first. -/
def Raw.words (r : Raw) : List DWord := if r.x then [r.baseWord, r.extWord] else [r.baseWord]

/-- Go on when a check holds, else refuse by name. -/
def need {α : Type} (ok : Bool) (e : DecodeError) (k : Except DecodeError α) : Except DecodeError α :=
  if ok then k else .error e

/-- Go on with a value that a code names, else refuse by name. -/
def needSome {α β : Type} (o : Option α) (e : DecodeError) (k : α → Except DecodeError β) : Except DecodeError β :=
  match o with
  | some v => k v
  | none => .error e

def Raw.zb (r : Raw) : Bool := r.b == 0 && r.bk == 0
def Raw.zc (r : Raw) : Bool := r.c == 0 && r.ck == 0
/-- R43: the guard of a uniform entry. -/
def Raw.uni (r : Raw) : Bool := r.g == 15 && !r.gn

/-- The guard field. -/
def Raw.guard (r : Raw) : Guard := ⟨r.g, r.gn⟩

/-! ### Codes of the small vocabularies -/

def Round.code : Round → BitVec 2
  | .rn => 0 | .rz => 1 | .ru => 2 | .rd => 3
def Round.ofCode (c : BitVec 2) : Round :=
  if c == 0 then .rn else if c == 1 then .rz else if c == 2 then .ru else .rd

def Acc.code : Acc → BitVec 3
  | .n8 => 0 | .i8 => 1 | .n16 => 2 | .i16 => 3 | .b32 => 4 | .b64 => 5
def Acc.ofCode (c : BitVec 3) : Option Acc :=
  [Acc.n8, .i8, .n16, .i16, .b32, .b64][c.toNat]?

def Policy.code : Policy → BitVec 3
  | .near => 0 | .die => 1 | .once => 2 | .home => 3
def Policy.ofCode (c : BitVec 3) : Option Policy := [Policy.near, .die, .once, .home][c.toNat]?

def Scope.code : Scope → BitVec 3
  | .grp => 0 | .blk => 1 | .clu => 2 | .dev => 3 | .dom => 4 | .sys => 5
def Scope.ofCode (c : BitVec 3) : Option Scope := [Scope.grp, .blk, .clu, .dev, .dom, .sys][c.toNat]?

def Order.code : Order → BitVec 3
  | .relaxed => 0 | .acq => 1 | .rel => 2 | .ar => 3 | .sc => 4
def Order.ofCode (c : BitVec 3) : Option Order := [Order.relaxed, .acq, .rel, .ar, .sc][c.toNat]?

def AOp.code : AOp → BitVec 5
  | .add => 0 | .min => 1 | .max => 2 | .and => 3 | .or => 4 | .xor => 5 | .exch => 6 | .inc => 7 | .dec => 8
def AOp.ofCode (c : BitVec 5) : Option AOp :=
  [AOp.add, .min, .max, .and, .or, .xor, .exch, .inc, .dec][c.toNat]?

def BScope.code : BScope → BitVec 3
  | .blk => 1 | .clu => 2 | .grid => 3
def BScope.ofCode (c : BitVec 3) : Option BScope :=
  if c == 1 then some .blk else if c == 2 then some .clu else if c == 3 then some .grid else none

def CSpace.code : CSpace → BitVec 3
  | .glob => 0 | .own => 1 | .peer => 2 | .bstore => 3
def CSpace.ofCode (c : BitVec 3) : Option CSpace := [CSpace.glob, .own, .peer, .bstore][c.toNat]?

/-- The index of a special register (R53). -/
def Special.code : Special → Idx
  | .exec => 0x000 | .live => 0x001 | .laneid => 0x002 | .quadid => 0x003 | .grpid => 0x004
  | .blkx => 0x008 | .blky => 0x009 | .blkz => 0x00A | .nblkx => 0x00C | .nblky => 0x00D | .nblkz => 0x00E
  | .lidcore => 0x010 | .lidclus => 0x011 | .lmap => 0x012 | .npass => 0x013 | .clock => 0x018
  | .abortc => 0x020 | .faultc => 0x021 | .faultva => 0x022 | .stkptr => 0x028 | .stklim => 0x029 | .dbase => 0x030

def Special.all : List Special :=
  [.exec, .live, .laneid, .quadid, .grpid, .blkx, .blky, .blkz, .nblkx, .nblky, .nblkz, .lidcore, .lidclus,
   .lmap, .npass, .clock, .abortc, .faultc, .faultva, .stkptr, .stklim, .dbase]

/-- The special register of an index; an index not listed in R53 is refused. -/
def Special.ofCode (c : Idx) : Option Special := Special.all.find? fun s => s.code == c

def NstatSub.code : NstatSub → BitVec 2
  | .count => 0 | .pool => 1 | .pins => 2
def NstatSub.ofCode (c : BitVec 2) : Option NstatSub := [NstatSub.count, .pool, .pins][c.toNat]?

def TstatSub.toCode : TstatSub → BitVec 2
  | .code => 0 | .state => 1 | .mask => 2
def TstatSub.ofBits (c : BitVec 2) : Option TstatSub := [TstatSub.code, .state, .mask][c.toNat]?

/-! ### Operands -/

/-- The B operand of a value or count (R31, R32). IMM32 must be zero unless it is the operand. -/
def Raw.opndB (r : Raw) : Except DecodeError Opnd :=
  if r.bk == 1 then
    if r.x then need (r.b == 0) .mustBeZero (.ok (.imm32 r.imm)) else .ok (.imm14 r.b)
  else need (r.imm == 0) .mustBeZero
    (.ok (if r.bk == 0 then .reg r.b else if r.bk == 2 then .scal r.b else .slot r.b))

/-- The C operand: CK of 0b01 is rejected (R31). -/
def Raw.opndC (r : Raw) : Except DecodeError Opnd :=
  if r.ck == 1 then .error .badOperand
  else .ok (if r.ck == 0 then .reg r.c else if r.ck == 2 then .scal r.c else .slot r.c)

/-- The index and offset of a memory operand (R40). -/
def Raw.addr (r : Raw) : Except DecodeError AddrForm :=
  let scale : BitVec 2 := r.m8.extractLsb' 6 2
  if r.bk == 0 then .ok (.vec r.b scale r.imm)
  else if r.bk == 2 then .ok (.scal r.b scale r.imm)
  else if r.bk == 1 then
    if r.x then need (r.b == 0) .mustBeZero (.ok (.off32 scale r.imm)) else .ok (.off14 r.b)
  else .error .badOperand

/-- The fields of a B operand: field, kind, IMM32. -/
def Opnd.bField : Opnd → Idx
  | .reg i | .scal i | .slot i | .imm14 i => i
  | .imm32 _ => 0
def Opnd.bKind : Opnd → BitVec 2
  | .reg _ => 0 | .imm14 _ | .imm32 _ => 1 | .scal _ => 2 | .slot _ => 3
def Opnd.bImm : Opnd → BitVec 32
  | .imm32 v => v
  | _ => 0

def AddrForm.bField : AddrForm → Idx
  | .vec i _ _ | .scal i _ _ => i
  | .off14 v => v
  | .off32 _ _ => 0
def AddrForm.bKind : AddrForm → BitVec 2
  | .vec _ _ _ => 0 | .scal _ _ _ => 2 | .off14 _ | .off32 _ _ => 1
def AddrForm.imm : AddrForm → BitVec 32
  | .vec _ _ o | .scal _ _ o | .off32 _ o => o
  | .off14 _ => 0
def AddrForm.scale : AddrForm → BitVec 2
  | .vec _ s _ | .scal _ s _ | .off32 s _ => s
  | .off14 _ => 0

/-- A word with every field 0 but the opcode, the always guard and X. -/
def Raw.plain (op : BitVec 8) (x : Bool) : Raw :=
  { op := op, g := 15, gn := false, x := x, fn := 0, d := 0, a := 0, b := 0, bk := 0, c := 0, ck := 0, m8 := 0,
    mbz := 0, imm := 0 }

/-- The same with a guard. -/
def Raw.guarded (op : BitVec 8) (gd : Guard) (x : Bool) : Raw := { Raw.plain op x with g := gd.reg, gn := gd.neg }

/-! ### Each shape: its fields from a word, and its word from its fields -/

def Alu.ofRaw (r : Raw) : Except DecodeError Alu :=
  need (r.mbz == 0) .mustBeZero <|
  needSome (Ty.ofCode (r.fn.extractLsb' 0 5).toNat) .badFunction fun ty =>
  r.opndB.bind fun b => r.opndC.bind fun c =>
  .ok { guard := r.guard, ext := r.x, u := r.fn.getLsbD 5, ty := ty, rm := Round.ofCode (r.m8.extractLsb' 6 2),
        sat := r.m8.getLsbD 5, sub := r.m8.extractLsb' 0 5, d := r.d, a := r.a, b := b, c := c }

def Alu.toRaw (op : BitVec 8) (f : Alu) : Raw :=
  { op := op, g := f.guard.reg, gn := f.guard.neg, x := f.ext, fn := BitVec.ofBool f.u ++ f.ty.code, d := f.d, a := f.a,
    b := f.b.bField, bk := f.b.bKind, c := f.c.bField, ck := f.c.bKind,
    m8 := f.rm.code ++ BitVec.ofBool f.sat ++ f.sub, mbz := 0, imm := f.b.bImm }

/-- PSET's table stands in IMM32 bits 7:0 (R62); T is `.b32` and U is 0. -/
def PsetOp.ofRaw (r : Raw) : Except DecodeError PsetOp :=
  need r.x .missingExtension <|
  need (r.mbz == 0 && r.m8 == 0 && r.imm.extractLsb' 8 24 == 0) .mustBeZero <|
  need (r.fn == 8) .badFunction <|
  need (r.bk == 0 && r.ck == 0) .badOperand <|
  .ok { guard := r.guard, d := r.d, a := r.a, b := r.b, c := r.c, table := r.imm.extractLsb' 0 8 }

def PsetOp.toRaw (f : PsetOp) : Raw :=
  { Raw.guarded 0x1B f.guard true with fn := 8, d := f.d, a := f.a, b := f.b, c := f.c, imm := f.table.setWidth 32 }

def BraOp.ofRaw (r : Raw) : Except DecodeError BraOp :=
  need r.x .missingExtension <|
  need (r.mbz == 0 && r.m8 == 0 && r.fn == 0 && r.d == 0 && r.a == 0 && r.zb && r.zc) .mustBeZero <|
  .ok { guard := r.guard, target := r.imm }
def BraOp.toRaw (f : BraOp) : Raw := { Raw.guarded 0x60 f.guard true with imm := f.target }

def BrxOp.ofRaw (r : Raw) : Except DecodeError BrxOp :=
  need r.x .missingExtension <|
  need (r.mbz == 0 && r.m8 == 0 && r.fn == 0 && r.d == 0 && r.zb && r.zc) .mustBeZero <|
  .ok { guard := r.guard, a := r.a, join := r.imm }
def BrxOp.toRaw (f : BrxOp) : Raw := { Raw.guarded 0x61 f.guard true with a := f.a, imm := f.join }

def CallOp.ofRaw (r : Raw) : Except DecodeError CallOp :=
  need r.x .missingExtension <|
  need (r.mbz == 0) .mustBeZero <|
  need (r.bk == 0 && r.ck == 0) .badOperand <|
  .ok { guard := r.guard, ns := r.fn.extractLsb' 3 3, nsr := r.fn.extractLsb' 0 3, na := r.m8.extractLsb' 4 4,
        nr := r.m8.extractLsb' 0 4, d := r.d, a := r.a, b := r.b, c := r.c, imm := r.imm }
def CallOp.toRaw (op : BitVec 8) (f : CallOp) : Raw :=
  { Raw.guarded op f.guard true with
    fn := f.ns ++ f.nsr, m8 := f.na ++ f.nr, d := f.d, a := f.a, b := f.b, c := f.c, imm := f.imm }

def RetOp.ofRaw (r : Raw) : Except DecodeError RetOp :=
  need (r.mbz == 0 && r.d == 0 && r.zc && r.imm == 0 && r.fn.extractLsb' 3 3 == 0 && r.m8.extractLsb' 4 4 == 0)
    .mustBeZero <|
  need (r.bk == 0) .badOperand <|
  .ok { guard := r.guard, ext := r.x, nsr := r.fn.extractLsb' 0 3, nr := r.m8.extractLsb' 0 4, a := r.a, b := r.b }
def RetOp.toRaw (f : RetOp) : Raw :=
  { Raw.guarded 0x64 f.guard f.ext with fn := (0 : BitVec 3) ++ f.nsr, m8 := (0 : BitVec 4) ++ f.nr, a := f.a, b := f.b }

/-- A word with no field but the guard. -/
def Raw.bare (r : Raw) : Bool :=
  r.mbz == 0 && r.m8 == 0 && r.imm == 0 && r.d == 0 && r.a == 0 && r.zb && r.zc

def GuardOp.ofRaw (r : Raw) : Except DecodeError GuardOp :=
  need (r.bare && r.fn == 0) .mustBeZero <| .ok { guard := r.guard, ext := r.x }
def GuardOp.toRaw (op : BitVec 8) (f : GuardOp) : Raw := Raw.guarded op f.guard f.ext

/-- `fn` is the function field the entry fixes (0; the mode of RTE; the sub-operation of `dbg.halt`). -/
def PlainOp.ofRaw (fn : BitVec 6) (r : Raw) : Except DecodeError PlainOp :=
  need (r.bare && r.fn == fn) .mustBeZero <| need r.uni .badGuard <| .ok { ext := r.x }
def PlainOp.toRaw (op : BitVec 8) (fn : BitVec 6) (f : PlainOp) : Raw := { Raw.plain op f.ext with fn := fn }

/-- SPAWN's IMM32 is its entry index, so an immediate count is the 14-bit field (R32, R136). -/
def SpawnOp.ofRaw (r : Raw) : Except DecodeError SpawnOp :=
  need r.x .missingExtension <|
  need (r.mbz == 0 && r.m8 == 0 && r.fn == 0 && r.zc) .mustBeZero <|
  need r.uni .badGuard <|
  need (r.bk != 2) .badOperand <|
  .ok { d := r.d, a := r.a, entry := r.imm,
        b := if r.bk == 0 then .reg r.b else if r.bk == 1 then .imm14 r.b else .slot r.b }
def SpawnOp.toRaw (f : SpawnOp) : Raw :=
  { Raw.plain 0x66 true with d := f.d, a := f.a, b := f.b.bField, bk := f.b.bKind, imm := f.entry }

def TrapOp.ofRaw (r : Raw) : Except DecodeError TrapOp :=
  need (r.mbz == 0 && r.m8 == 0 && r.fn == 0 && r.d == 0 && r.a == 0 && r.zb && r.zc) .mustBeZero <|
  .ok { guard := r.guard, ext := r.x, code := r.imm }
def TrapOp.toRaw (op : BitVec 8) (f : TrapOp) : Raw := { Raw.guarded op f.guard f.ext with imm := f.code }

def MemOp.ofRaw (r : Raw) : Except DecodeError MemOp :=
  need (r.mbz == 0 && r.zc && r.m8.extractLsb' 0 4 == 0) .mustBeZero <|
  needSome (Acc.ofCode (r.fn.extractLsb' 3 3)) .badFunction fun acc =>
  needSome (Policy.ofCode (r.fn.extractLsb' 0 3)) .badFunction fun pol =>
  r.addr.bind fun ad =>
  .ok { guard := r.guard, ext := r.x, acc := acc, pol := pol, vb := r.m8.getLsbD 5, su := r.m8.getLsbD 4, d := r.d,
        a := r.a, addr := ad }
def MemOp.toRaw (op : BitVec 8) (f : MemOp) : Raw :=
  { Raw.guarded op f.guard f.ext with
    fn := f.acc.code ++ f.pol.code, m8 := f.addr.scale ++ BitVec.ofBool f.vb ++ BitVec.ofBool f.su ++ (0 : BitVec 4),
    d := f.d, a := f.a, b := f.addr.bField, bk := f.addr.bKind, imm := f.addr.imm }

def PrefOp.ofRaw (r : Raw) : Except DecodeError PrefOp :=
  need (r.mbz == 0 && r.zc && r.d == 0 && r.m8.extractLsb' 0 5 == 0 && r.fn.extractLsb' 3 3 == 0) .mustBeZero <|
  needSome (Policy.ofCode (r.fn.extractLsb' 0 3)) .badFunction fun pol =>
  r.addr.bind fun ad =>
  .ok { guard := r.guard, ext := r.x, pol := pol, vb := r.m8.getLsbD 5, a := r.a, addr := ad }
def PrefOp.toRaw (f : PrefOp) : Raw :=
  { Raw.guarded 0x77 f.guard f.ext with
    fn := (0 : BitVec 3) ++ f.pol.code, m8 := f.addr.scale ++ BitVec.ofBool f.vb ++ (0 : BitVec 5),
    a := f.a, b := f.addr.bField, bk := f.addr.bKind, imm := f.addr.imm }

def EvictOp.ofRaw (r : Raw) : Except DecodeError EvictOp :=
  let sub : BitVec 4 := r.m8.extractLsb' 0 4
  if sub == 2 then
    need (r.mbz == 0 && r.zc && r.d == 0 && r.a == 0 && r.zb && r.fn == 0 && r.imm == 0 && r.m8.extractLsb' 4 4 == 0)
      .mustBeZero <| need r.uni .badGuard <| .ok .l1all
  else
    need (r.mbz == 0 && r.zc && r.d == 0 && r.fn == 0 && !r.m8.getLsbD 4) .mustBeZero <|
    need (sub == 0 || sub == 1) .badFunction <|
    r.addr.bind fun ad => .ok (.line r.guard r.x (sub == 1) (r.m8.getLsbD 5) r.a ad)
def EvictOp.toRaw : EvictOp → Raw
  | .line gd x l2 vb a ad =>
    { Raw.guarded 0x78 gd x with
      m8 := ad.scale ++ BitVec.ofBool vb ++ (0 : BitVec 4) ++ BitVec.ofBool l2, a := a, b := ad.bField,
      bk := ad.bKind, imm := ad.imm }
  | .l1all => { Raw.plain 0x78 true with m8 := 2 }

def FenceOp.ofRaw (r : Raw) : Except DecodeError FenceOp :=
  need r.x .missingExtension <|
  need (r.mbz == 0 && r.zc && r.d == 0 && r.a == 0 && r.zb && r.imm == 0 && r.m8.extractLsb' 4 4 == 0) .mustBeZero <|
  need r.uni .badGuard <|
  needSome (Scope.ofCode (r.fn.extractLsb' 3 3)) .badFunction fun sc =>
  needSome (Order.ofCode (r.fn.extractLsb' 0 3)) .badFunction fun o =>
  .ok { scope := sc, order := o, mask := r.m8.extractLsb' 0 4 }
def FenceOp.toRaw (f : FenceOp) : Raw :=
  { Raw.plain 0x79 true with fn := f.scope.code ++ f.order.code, m8 := (0 : BitVec 4) ++ f.mask }

/-- The selector of R204 stands in C; the extension word is always present (R203). -/
def AtomOp.ofRaw (r : Raw) : Except DecodeError AtomOp :=
  need r.x .missingExtension <|
  need (r.mbz == 0 && r.ck == 0 && r.c.extractLsb' 10 3 == 0) .mustBeZero <|
  needSome (Scope.ofCode (r.fn.extractLsb' 3 3)) .badFunction fun sc =>
  needSome (Order.ofCode (r.fn.extractLsb' 0 3)) .badFunction fun o =>
  needSome (AOp.ofCode (r.c.extractLsb' 5 5)) .badFunction fun ao =>
  needSome (Ty.ofCode (r.c.extractLsb' 0 5).toNat) .badFunction fun ty =>
  r.addr.bind fun ad =>
  .ok { guard := r.guard, scope := sc, order := o, vb := r.m8.getLsbD 5, su := r.m8.getLsbD 4,
        mask := r.m8.extractLsb' 0 4, d := r.d, a := r.a, addr := ad, ps := r.c.getLsbD 13, aop := ao, ty := ty }
def AtomOp.toRaw (op : BitVec 8) (f : AtomOp) : Raw :=
  { Raw.guarded op f.guard true with
    fn := f.scope.code ++ f.order.code,
    m8 := f.addr.scale ++ BitVec.ofBool f.vb ++ BitVec.ofBool f.su ++ f.mask, d := f.d, a := f.a, b := f.addr.bField,
    bk := f.addr.bKind, c := BitVec.ofBool f.ps ++ (0 : BitVec 3) ++ f.aop.code ++ f.ty.code, imm := f.addr.imm }

def BarOp.ofRaw (r : Raw) : Except DecodeError BarOp :=
  need r.x .missingExtension <|
  need (r.mbz == 0 && r.zc && r.zb && r.m8.extractLsb' 4 4 == 0 && r.fn.extractLsb' 0 3 == 0
    && r.imm.extractLsb' 4 28 == 0) .mustBeZero <|
  need r.uni .badGuard <|
  needSome (BScope.ofCode (r.fn.extractLsb' 3 3)) .badFunction fun sc =>
  .ok { scope := sc, mask := r.m8.extractLsb' 0 4, num := r.imm.extractLsb' 0 4, d := r.d, a := r.a }
def BarOp.toRaw (op : BitVec 8) (f : BarOp) : Raw :=
  { Raw.plain op true with
    fn := f.scope.code ++ (0 : BitVec 3), m8 := (0 : BitVec 4) ++ f.mask, d := f.d, a := f.a, imm := f.num.setWidth 32 }

def WaitcOp.ofRaw (r : Raw) : Except DecodeError WaitcOp :=
  need r.x .missingExtension <|
  need (r.mbz == 0 && r.m8 == 0 && r.fn == 0 && r.d == 0 && r.a == 0 && r.zb && r.zc) .mustBeZero <|
  need r.uni .badGuard <|
  .ok { nld := r.imm.extractLsb' 0 8, nst := r.imm.extractLsb' 8 8, ncp := r.imm.extractLsb' 16 8,
        ntl := r.imm.extractLsb' 24 8 }
def WaitcOp.toRaw (f : WaitcOp) : Raw := { Raw.plain 0xA4 true with imm := f.ntl ++ f.ncp ++ f.nst ++ f.nld }

/-- The channel stands in FN bits 2:0 and FN bits 5:3 are zero (R233). -/
def Raw.chan (r : Raw) : BitVec 3 := r.fn.extractLsb' 0 3
def Raw.chanZ (r : Raw) : Bool := r.fn.extractLsb' 3 3 == 0

/-- A length or count: a scalar register, or IMM32 with X = 1 (R233, R258). -/
def Raw.len (r : Raw) : Except DecodeError Opnd :=
  if r.bk == 0 then need (r.imm == 0) .mustBeZero (.ok (.reg r.b))
  else if r.bk == 1 then
    need r.x .missingExtension <| need (r.b == 0) .mustBeZero <| .ok (.imm32 r.imm)
  else .error .badOperand

def CpyOp.ofRaw (r : Raw) : Except DecodeError CpyOp :=
  need (r.mbz == 0 && r.zc && r.chanZ && !r.m8.getLsbD 7 && !r.m8.getLsbD 3) .mustBeZero <|
  need r.uni .badGuard <|
  needSome (CSpace.ofCode (r.m8.extractLsb' 4 3)) .badOperand fun dsp =>
  needSome (CSpace.ofCode (r.m8.extractLsb' 0 3)) .badOperand fun ssp =>
  r.len.bind fun n => .ok { ext := r.x, ch := r.chan, dsp := dsp, ssp := ssp, d := r.d, a := r.a, len := n }
def CpyOp.toRaw (f : CpyOp) : Raw :=
  { Raw.plain 0xB0 f.ext with
    fn := (0 : BitVec 3) ++ f.ch, m8 := BitVec.ofBool false ++ f.dsp.code ++ BitVec.ofBool false ++ f.ssp.code, d := f.d,
    a := f.a, b := f.len.bField, bk := f.len.bKind, imm := f.len.bImm }

def CpyRecOp.ofRaw (r : Raw) : Except DecodeError CpyRecOp :=
  need (r.mbz == 0 && r.zc && r.zb && r.d == 0 && r.imm == 0 && r.chanZ && r.m8.extractLsb' 5 3 == 0
    && r.m8.extractLsb' 1 3 == 0) .mustBeZero <|
  need r.uni .badGuard <|
  .ok { ext := r.x, ch := r.chan, a := r.a, inScr := r.m8.getLsbD 0, clr := r.m8.getLsbD 4 }
def CpyRecOp.toRaw (op : BitVec 8) (f : CpyRecOp) : Raw :=
  { Raw.plain op f.ext with
    fn := (0 : BitVec 3) ++ f.ch, m8 := (0 : BitVec 3) ++ BitVec.ofBool f.clr ++ (0 : BitVec 3) ++ BitVec.ofBool f.inScr,
    a := f.a }

def ChcfgOp.ofRaw (r : Raw) : Except DecodeError ChcfgOp :=
  need (r.mbz == 0 && r.zc && r.d == 0 && r.chanZ && r.m8.extractLsb' 3 5 == 0 && r.imm.extractLsb' 16 16 == 0)
    .mustBeZero <|
  need r.x .missingExtension <|
  need r.uni .badGuard <|
  need (r.bk == 0) .badOperand <|
  needSome (CSpace.ofCode (r.m8.extractLsb' 0 3)) .badOperand fun sp =>
  .ok { ext := r.x, ch := r.chan, a := r.a, b := r.b, sp := sp, w := r.imm.extractLsb' 0 16 }
def ChcfgOp.toRaw (f : ChcfgOp) : Raw :=
  { Raw.plain 0xB4 f.ext with
    fn := (0 : BitVec 3) ++ f.ch, m8 := (0 : BitVec 5) ++ f.sp.code, a := f.a, b := f.b, imm := f.w.setWidth 32 }

def WmarkOp.ofRaw (r : Raw) : Except DecodeError WmarkOp :=
  need (r.mbz == 0 && r.zc && r.zb && r.a == 0 && r.imm == 0 && r.chanZ && r.m8.extractLsb' 1 7 == 0) .mustBeZero <|
  need r.uni .badGuard <|
  .ok { ext := r.x, ch := r.chan, d := r.d, clr := r.m8.getLsbD 0 }
def WmarkOp.toRaw (f : WmarkOp) : Raw :=
  { Raw.plain 0xB5 f.ext with fn := (0 : BitVec 3) ++ f.ch, m8 := (0 : BitVec 7) ++ BitVec.ofBool f.clr, d := f.d }

def YieldcOp.ofRaw (r : Raw) : Except DecodeError YieldcOp :=
  need r.x .missingExtension <|
  need (r.mbz == 0 && r.m8 == 0 && r.chanZ && r.d == 0 && r.a == 0 && r.zb && r.zc) .mustBeZero <|
  need r.uni .badGuard <| .ok { ch := r.chan, target := r.imm }
def YieldcOp.toRaw (f : YieldcOp) : Raw :=
  { Raw.plain 0xB6 true with fn := (0 : BitVec 3) ++ f.ch, imm := f.target }

def FabOp.ofRaw (r : Raw) : Except DecodeError FabOp :=
  need (r.mbz == 0 && r.zc && r.chanZ && r.m8.extractLsb' 1 7 == 0) .mustBeZero <|
  need r.uni .badGuard <|
  r.len.bind fun n => .ok { ext := r.x, ch := r.chan, d := r.d, a := r.a, len := n, inScr := r.m8.getLsbD 0 }
def FabOp.toRaw (op : BitVec 8) (f : FabOp) : Raw :=
  { Raw.plain op f.ext with
    fn := (0 : BitVec 3) ++ f.ch, m8 := (0 : BitVec 7) ++ BitVec.ofBool f.inScr, d := f.d, a := f.a, b := f.len.bField,
    bk := f.len.bKind, imm := f.len.bImm }

def MmaOp.ofRaw (r : Raw) : Except DecodeError MmaOp :=
  need r.x .missingExtension <|
  need (r.mbz == 0 && r.imm == 0 && r.fn == 0 && r.m8.extractLsb' 1 7 == 0) .mustBeZero <|
  need r.uni .badGuard <|
  need (r.bk == 0 && r.ck == 0) .badOperand <|
  .ok { d := r.d, a := r.a, b := r.b, c := r.c, acc := r.m8.getLsbD 0 }
def MmaOp.toRaw (f : MmaOp) : Raw :=
  { Raw.plain 0xC0 true with d := f.d, a := f.a, b := f.b, c := f.c, m8 := (0 : BitVec 7) ++ BitVec.ofBool f.acc }

def TileOp.ofRaw (r : Raw) : Except DecodeError TileOp :=
  need (r.mbz == 0 && r.imm == 0 && r.fn == 0 && r.m8 == 0 && r.zb && r.zc) .mustBeZero <|
  need r.uni .badGuard <| .ok { ext := r.x, d := r.d, a := r.a }
def TileOp.toRaw (op : BitVec 8) (f : TileOp) : Raw := { Raw.plain op f.ext with d := f.d, a := f.a }

def TdrainOp.ofRaw (r : Raw) : Except DecodeError TdrainOp :=
  need r.x .missingExtension <|
  need (r.mbz == 0 && r.a == 0 && r.zb && r.zc && r.fn.extractLsb' 4 2 == 0 && r.imm.extractLsb' 24 8 == 0)
    .mustBeZero <|
  need r.uni .badGuard <|
  needSome (Ty.ofCode (r.m8.extractLsb' 0 5).toNat) .badFunction fun ty =>
  .ok { q := r.chan, clr := r.fn.getLsbD 3, d := r.d, rm := Round.ofCode (r.m8.extractLsb' 6 2), sat := r.m8.getLsbD 5,
        ty := ty, row0 := r.imm.extractLsb' 0 8, nrows1 := r.imm.extractLsb' 8 8, ncols1 := r.imm.extractLsb' 16 8 }
def TdrainOp.toRaw (f : TdrainOp) : Raw :=
  { Raw.plain 0xC3 true with
    fn := (0 : BitVec 2) ++ BitVec.ofBool f.clr ++ f.q, d := f.d, m8 := f.rm.code ++ BitVec.ofBool f.sat ++ f.ty.code,
    imm := (0 : BitVec 8) ++ f.ncols1 ++ f.nrows1 ++ f.row0 }

def QpopOp.ofRaw (r : Raw) : Except DecodeError QpopOp :=
  need (r.mbz == 0 && r.imm == 0 && r.chanZ && r.m8 == 0 && r.a == 0 && r.zb && r.zc) .mustBeZero <|
  .ok { guard := r.guard, ext := r.x, q := r.chan, d := r.d }
def QpopOp.toRaw (f : QpopOp) : Raw :=
  { Raw.guarded 0xC4 f.guard f.ext with fn := (0 : BitVec 3) ++ f.q, d := f.d }

def QstoreOp.ofRaw (r : Raw) : Except DecodeError QstoreOp :=
  need (r.mbz == 0 && r.zc && r.d == 0 && r.chanZ && r.m8.extractLsb' 1 7 == 0) .mustBeZero <|
  need r.uni .badGuard <|
  r.len.bind fun n => .ok { ext := r.x, q := r.chan, a := r.a, cnt := n, inScr := r.m8.getLsbD 0 }
def QstoreOp.toRaw (f : QstoreOp) : Raw :=
  { Raw.plain 0xC5 f.ext with
    fn := (0 : BitVec 3) ++ f.q, a := f.a, b := f.cnt.bField, bk := f.cnt.bKind, imm := f.cnt.bImm,
    m8 := (0 : BitVec 7) ++ BitVec.ofBool f.inScr }

def QsendOp.ofRaw (r : Raw) : Except DecodeError QsendOp :=
  need (r.mbz == 0 && r.zc && r.a == 0 && r.chanZ && r.m8 == 0) .mustBeZero <|
  need r.uni .badGuard <|
  r.len.bind fun n => .ok { ext := r.x, q := r.chan, d := r.d, cnt := n }
def QsendOp.toRaw (f : QsendOp) : Raw :=
  { Raw.plain 0xC6 f.ext with
    fn := (0 : BitVec 3) ++ f.q, d := f.d, b := f.cnt.bField, bk := f.cnt.bKind, imm := f.cnt.bImm }

def QstatOp.ofRaw (r : Raw) : Except DecodeError QstatOp :=
  need (r.mbz == 0 && r.zb && r.zc && r.a == 0 && r.chanZ && r.m8.extractLsb' 1 7 == 0 && r.imm.extractLsb' 4 28 == 0)
    .mustBeZero <|
  need r.x .missingExtension <|
  need r.uni .badGuard <|
  .ok { ext := r.x, q := r.chan, d := r.d, clr := r.m8.getLsbD 0, tile := r.imm.extractLsb' 0 4 }
def QstatOp.toRaw (f : QstatOp) : Raw :=
  { Raw.plain 0xC7 f.ext with
    fn := (0 : BitVec 3) ++ f.q, d := f.d, m8 := (0 : BitVec 7) ++ BitVec.ofBool f.clr, imm := f.tile.setWidth 32 }

/-- A region in IMM32 bits 3:0 (R283). -/
def Raw.region (r : Raw) : BitVec 4 := r.imm.extractLsb' 0 4
def Raw.regionZ (r : Raw) : Bool := r.imm.extractLsb' 4 28 == 0

def NputOp.ofRaw (r : Raw) : Except DecodeError NputOp :=
  need r.x .missingExtension <|
  need (r.mbz == 0 && r.zb && r.m8 == 0 && r.regionZ && r.fn.extractLsb' 1 5 == 0) .mustBeZero <|
  need r.uni .badGuard <|
  need (r.ck == 0) .badOperand <|
  .ok { node := r.fn.getLsbD 0, d := r.d, a := r.a, c := r.c, region := r.region }
def NputOp.toRaw (op : BitVec 8) (f : NputOp) : Raw :=
  { Raw.plain op true with
    fn := (0 : BitVec 5) ++ BitVec.ofBool f.node, d := f.d, a := f.a, c := f.c, imm := f.region.setWidth 32 }

def NnameOp.ofRaw (r : Raw) : Except DecodeError NnameOp :=
  need (r.mbz == 0 && r.zb && r.zc && r.m8 == 0 && r.fn == 0 && r.regionZ) .mustBeZero <|
  need r.x .missingExtension <|
  need r.uni .badGuard <| .ok { ext := r.x, d := r.d, a := r.a, region := r.region }
def NnameOp.toRaw (op : BitVec 8) (f : NnameOp) : Raw :=
  { Raw.plain op f.ext with d := f.d, a := f.a, imm := f.region.setWidth 32 }

def NrootOp.ofRaw (r : Raw) : Except DecodeError NrootOp :=
  need (r.mbz == 0 && r.zb && r.zc && r.imm == 0 && r.m8.extractLsb' 5 3 == 0) .mustBeZero <|
  need r.uni .badGuard <|
  needSome (Scope.ofCode (r.fn.extractLsb' 3 3)) .badFunction fun sc =>
  needSome (Order.ofCode (r.fn.extractLsb' 0 3)) .badFunction fun o =>
  .ok { ext := r.x, scope := sc, order := o, mask := r.m8.extractLsb' 0 4, pin := r.m8.getLsbD 4, d := r.d, a := r.a }
def NrootOp.toRaw (f : NrootOp) : Raw :=
  { Raw.plain 0xD3 f.ext with
    fn := f.scope.code ++ f.order.code, m8 := (0 : BitVec 3) ++ BitVec.ofBool f.pin ++ f.mask, d := f.d, a := f.a }

def NswapOp.ofRaw (r : Raw) : Except DecodeError NswapOp :=
  need r.x .missingExtension <|
  need (r.mbz == 0 && r.imm == 0 && r.m8.extractLsb' 4 4 == 0) .mustBeZero <|
  need r.uni .badGuard <|
  need (r.bk == 0 && r.ck == 0) .badOperand <|
  needSome (Scope.ofCode (r.fn.extractLsb' 3 3)) .badFunction fun sc =>
  needSome (Order.ofCode (r.fn.extractLsb' 0 3)) .badFunction fun o =>
  .ok { scope := sc, order := o, mask := r.m8.extractLsb' 0 4, d := r.d, a := r.a, b := r.b, c := r.c }
def NswapOp.toRaw (f : NswapOp) : Raw :=
  { Raw.plain 0xD4 true with
    fn := f.scope.code ++ f.order.code, m8 := (0 : BitVec 4) ++ f.mask, d := f.d, a := f.a, b := f.b, c := f.c }

def NbindOp.ofRaw (r : Raw) : Except DecodeError NbindOp :=
  need (r.mbz == 0 && r.zc && r.m8 == 0 && r.fn == 0 && r.imm == 0) .mustBeZero <|
  need r.uni .badGuard <|
  need (r.bk == 0) .badOperand <| .ok { ext := r.x, d := r.d, a := r.a, b := r.b }
def NbindOp.toRaw (op : BitVec 8) (f : NbindOp) : Raw :=
  { Raw.plain op f.ext with d := f.d, a := f.a, b := f.b }

def NcopyOp.ofRaw (r : Raw) : Except DecodeError NcopyOp :=
  need (r.mbz == 0 && r.zb && r.zc && r.chanZ && r.regionZ && !r.m8.getLsbD 7 && r.m8.extractLsb' 0 4 == 0)
    .mustBeZero <|
  need r.x .missingExtension <|
  need r.uni .badGuard <|
  needSome (CSpace.ofCode (r.m8.extractLsb' 4 3)) .badOperand fun dsp =>
  .ok { ext := r.x, ch := r.chan, d := r.d, a := r.a, dsp := dsp, region := r.region }
def NcopyOp.toRaw (f : NcopyOp) : Raw :=
  { Raw.plain 0xD9 f.ext with
    fn := (0 : BitVec 3) ++ f.ch, m8 := BitVec.ofBool false ++ f.dsp.code ++ (0 : BitVec 4), d := f.d, a := f.a,
    imm := f.region.setWidth 32 }

def NstatOp.ofRaw (r : Raw) : Except DecodeError NstatOp :=
  need (r.mbz == 0 && r.zb && r.zc && r.fn == 0 && r.regionZ && r.m8.extractLsb' 2 6 == 0) .mustBeZero <|
  need r.x .missingExtension <|
  need r.uni .badGuard <|
  needSome (NstatSub.ofCode (r.m8.extractLsb' 0 2)) .badFunction fun sub =>
  .ok { ext := r.x, d := r.d, a := r.a, sub := sub, region := r.region }
def NstatOp.toRaw (f : NstatOp) : Raw :=
  { Raw.plain 0xDA f.ext with
    m8 := (0 : BitVec 6) ++ f.sub.code, d := f.d, a := f.a, imm := f.region.setWidth 32 }

def TryOp.ofRaw (r : Raw) : Except DecodeError TryOp :=
  need r.x .missingExtension <|
  need (r.mbz == 0 && r.m8 == 0 && r.d == 0 && r.a == 0 && r.zb && r.zc && r.fn.extractLsb' 1 5 == 0) .mustBeZero <|
  need r.uni .badGuard <| .ok { group := r.fn.getLsbD 0, target := r.imm }
def TryOp.toRaw (f : TryOp) : Raw :=
  { Raw.plain 0xE0 true with fn := (0 : BitVec 5) ++ BitVec.ofBool f.group, imm := f.target }

def AbortOp.ofRaw (r : Raw) : Except DecodeError AbortOp :=
  need (r.mbz == 0 && r.m8 == 0 && r.fn == 0 && r.d == 0 && r.a == 0 && r.zb && r.zc && r.imm.extractLsb' 8 24 == 0)
    .mustBeZero <|
  .ok { guard := r.guard, ext := r.x, code := r.imm.extractLsb' 0 8 }
def AbortOp.toRaw (f : AbortOp) : Raw := { Raw.guarded 0xE2 f.guard f.ext with imm := f.code.setWidth 32 }

def TstatOp.ofRaw (r : Raw) : Except DecodeError TstatOp :=
  need (r.mbz == 0 && r.fn == 0 && r.a == 0 && r.zb && r.zc && r.imm == 0 && r.m8.extractLsb' 2 6 == 0) .mustBeZero <|
  need r.uni .badGuard <|
  needSome (TstatSub.ofBits (r.m8.extractLsb' 0 2)) .badFunction fun sub => .ok { ext := r.x, d := r.d, sub := sub }
def TstatOp.toRaw (f : TstatOp) : Raw :=
  { Raw.plain 0xE3 f.ext with m8 := (0 : BitVec 6) ++ f.sub.toCode, d := f.d }

def SgetOp.ofRaw (r : Raw) : Except DecodeError SgetOp :=
  need (r.mbz == 0 && r.m8 == 0 && r.zb && r.zc && r.imm == 0 && r.fn.extractLsb' 0 5 == 0) .mustBeZero <|
  needSome (Special.ofCode r.a) .badOperand fun sp =>
  .ok { guard := r.guard, ext := r.x, u := r.fn.getLsbD 5, d := r.d, sp := sp }
def SgetOp.toRaw (f : SgetOp) : Raw :=
  { Raw.guarded 0xE8 f.guard f.ext with fn := BitVec.ofBool f.u ++ (0 : BitVec 5), d := f.d, a := f.sp.code }

def SsetOp.ofRaw (r : Raw) : Except DecodeError SsetOp :=
  need (r.mbz == 0 && r.m8 == 0 && r.fn == 0 && r.a == 0 && r.zc) .mustBeZero <|
  need r.uni .badGuard <|
  needSome (Special.ofCode r.d) .badOperand fun sp =>
  r.opndB.bind fun b => .ok { ext := r.x, sp := sp, b := b }
def SsetOp.toRaw (f : SsetOp) : Raw :=
  { Raw.plain 0xE9 f.ext with d := f.sp.code, b := f.b.bField, bk := f.b.bKind, imm := f.b.bImm }

def PerfOp.ofRaw (r : Raw) : Except DecodeError PerfOp :=
  need (r.mbz == 0 && r.m8 == 0 && r.a == 0 && r.zc && r.fn.extractLsb' 1 5 == 0) .mustBeZero <|
  need r.uni .badGuard <|
  r.opndB.bind fun b => .ok { ext := r.x, clr := r.fn.getLsbD 0, d := r.d, b := b }
def PerfOp.toRaw (f : PerfOp) : Raw :=
  { Raw.plain 0xEB f.ext with
    fn := (0 : BitVec 5) ++ BitVec.ofBool f.clr, d := f.d, b := f.b.bField, bk := f.b.bKind, imm := f.b.bImm }

def DbgLogOp.ofRaw (r : Raw) : Except DecodeError DbgLogOp :=
  need (r.mbz == 0 && r.m8 == 0 && r.d == 0 && r.zb && r.zc && r.fn == 0) .mustBeZero <|
  need r.x .missingExtension <|
  need r.uni .badGuard <| .ok { ext := r.x, a := r.a, tag := r.imm }
def DbgLogOp.toRaw (f : DbgLogOp) : Raw := { Raw.plain 0xEC f.ext with a := f.a, imm := f.tag }

/-! ### The opcode map -/

/-- A decoded instruction must be well formed (R45 items 4 and 5). -/
def checked (guard : Guard) (i : Instr) : Except DecodeError Instr :=
  if i.wf then .ok i else if guard.ok then .error .badOperand else .error .badGuard

/-- An instruction of a shape, from a word. -/
def shape {α : Type} (r : Raw) (f : Raw → Except DecodeError α) (k : α → Instr) : Except DecodeError Instr :=
  (f r).bind fun x => checked r.guard (k x)

/-- The opcode map of R41. -/
def decodeRaw (r : Raw) : Except DecodeError Instr :=
  match r.op.toNat with
  | 0x00 => shape r Alu.ofRaw .iadd
  | 0x01 => shape r Alu.ofRaw .isub
  | 0x02 => shape r Alu.ofRaw .imul
  | 0x03 => shape r Alu.ofRaw .imulhi
  | 0x04 => shape r Alu.ofRaw .imad
  | 0x05 => shape r Alu.ofRaw .imin
  | 0x06 => shape r Alu.ofRaw .imax
  | 0x07 => shape r Alu.ofRaw .iabs
  | 0x08 => shape r Alu.ofRaw .and
  | 0x09 => shape r Alu.ofRaw .or
  | 0x0A => shape r Alu.ofRaw .xor
  | 0x0B => shape r Alu.ofRaw .andn
  | 0x0C => shape r Alu.ofRaw .shl
  | 0x0D => shape r Alu.ofRaw .shr
  | 0x0E => shape r Alu.ofRaw .sar
  | 0x0F => shape r Alu.ofRaw .rot
  | 0x10 => shape r Alu.ofRaw .popc
  | 0x11 => shape r Alu.ofRaw .clz
  | 0x12 => shape r Alu.ofRaw .brev
  | 0x13 => shape r Alu.ofRaw .bfe
  | 0x14 => shape r Alu.ofRaw .bfi
  | 0x15 => shape r Alu.ofRaw .icmp
  | 0x16 => shape r Alu.ofRaw .sel
  | 0x17 => shape r Alu.ofRaw .mov
  | 0x18 => shape r Alu.ofRaw .movi
  | 0x19 => shape r Alu.ofRaw .lea
  | 0x1A => shape r Alu.ofRaw .iaddc
  | 0x1B => shape r PsetOp.ofRaw .pset
  | 0x1C => shape r Alu.ofRaw .dp4
  | 0x1D => shape r Alu.ofRaw .isad
  | 0x20 => shape r Alu.ofRaw .fadd
  | 0x21 => shape r Alu.ofRaw .fsub
  | 0x22 => shape r Alu.ofRaw .fmul
  | 0x23 => shape r Alu.ofRaw .ffma
  | 0x24 => shape r Alu.ofRaw .fmin
  | 0x25 => shape r Alu.ofRaw .fmax
  | 0x26 => shape r Alu.ofRaw .frcp
  | 0x27 => shape r Alu.ofRaw .frsq
  | 0x28 => shape r Alu.ofRaw .fsqrt
  | 0x29 => shape r Alu.ofRaw .fex2
  | 0x2A => shape r Alu.ofRaw .flg2
  | 0x2B => shape r Alu.ofRaw .fsin
  | 0x2C => shape r Alu.ofRaw .fcos
  | 0x2D => shape r Alu.ofRaw .ftanh
  | 0x2E => shape r Alu.ofRaw .fcmp
  | 0x2F => shape r Alu.ofRaw .fclass
  | 0x30 => shape r Alu.ofRaw .frnd
  | 0x31 => shape r Alu.ofRaw .cvt
  | 0x32 => shape r Alu.ofRaw .fpack
  | 0x33 => shape r Alu.ofRaw .hpadd
  | 0x34 => shape r Alu.ofRaw .hpmul
  | 0x35 => shape r Alu.ofRaw .hpfma
  | 0x40 => shape r Alu.ofRaw .add2
  | 0x41 => shape r Alu.ofRaw .sub2
  | 0x42 => shape r Alu.ofRaw .max2
  | 0x43 => shape r Alu.ofRaw .min2
  | 0x44 => shape r Alu.ofRaw .sel2
  | 0x45 => shape r Alu.ofRaw .cmp2
  | 0x46 => shape r Alu.ofRaw .shl2
  | 0x47 => shape r Alu.ofRaw .shr2
  | 0x50 => shape r Alu.ofRaw .shfl
  | 0x51 => shape r Alu.ofRaw .qswp
  | 0x52 => shape r Alu.ofRaw .qbcast
  | 0x53 => shape r Alu.ofRaw .vote
  | 0x54 => shape r Alu.ofRaw .gred
  | 0x55 => shape r Alu.ofRaw .gscan
  | 0x56 => shape r Alu.ofRaw .lget
  | 0x57 => shape r Alu.ofRaw .lput
  | 0x58 => shape r Alu.ofRaw .matchOp
  | 0x60 => shape r BraOp.ofRaw .bra
  | 0x61 => shape r BrxOp.ofRaw .brx
  | 0x62 => shape r CallOp.ofRaw .call
  | 0x63 => shape r CallOp.ofRaw .callx
  | 0x64 => shape r RetOp.ofRaw .ret
  | 0x65 => shape r GuardOp.ofRaw .endOp
  | 0x66 => shape r SpawnOp.ofRaw .spawn
  | 0x67 => shape r (PlainOp.ofRaw 0) .yield
  | 0x68 => shape r (PlainOp.ofRaw 0) .nop
  | 0x69 => shape r TrapOp.ofRaw .trap
  | 0x6A => shape r TrapOp.ofRaw .bkpt
  | 0x6B => shape r (PlainOp.ofRaw 0) .npbeg
  | 0x6C => shape r (PlainOp.ofRaw 0) .npend
  | 0x70 => shape r MemOp.ofRaw .ld
  | 0x71 => shape r MemOp.ofRaw .st
  | 0x72 => shape r MemOp.ofRaw .lds
  | 0x73 => shape r MemOp.ofRaw .sts
  | 0x74 => shape r MemOp.ofRaw .ldc
  | 0x75 => shape r MemOp.ofRaw .ldp
  | 0x76 => shape r MemOp.ofRaw .stp
  | 0x77 => shape r PrefOp.ofRaw .pref
  | 0x78 => shape r EvictOp.ofRaw .evict
  | 0x79 => shape r FenceOp.ofRaw .fence
  | 0x90 => shape r AtomOp.ofRaw .atom
  | 0x91 => shape r AtomOp.ofRaw .atoms
  | 0x92 => shape r AtomOp.ofRaw .atomp
  | 0x93 => shape r AtomOp.ofRaw .acas
  | 0x94 => shape r AtomOp.ofRaw .acass
  | 0x95 => shape r AtomOp.ofRaw .red
  | 0x96 => shape r AtomOp.ofRaw .reds
  | 0xA0 => shape r BarOp.ofRaw .barv
  | 0xA1 => shape r BarOp.ofRaw .barw
  | 0xA2 => shape r BarOp.ofRaw .bars
  | 0xA3 => shape r BarOp.ofRaw .barq
  | 0xA4 => shape r WaitcOp.ofRaw .waitc
  | 0xB0 => shape r CpyOp.ofRaw .cpy
  | 0xB1 => shape r CpyRecOp.ofRaw .cpyx
  | 0xB2 => shape r CpyRecOp.ofRaw .cpya
  | 0xB3 => shape r CpyRecOp.ofRaw .cpyd
  | 0xB4 => shape r ChcfgOp.ofRaw .chcfg
  | 0xB5 => shape r WmarkOp.ofRaw .wmark
  | 0xB6 => shape r YieldcOp.ofRaw .yieldc
  | 0xB7 => shape r FabOp.ofRaw .fsend
  | 0xB8 => shape r FabOp.ofRaw .spred
  | 0xC0 => shape r MmaOp.ofRaw .mma
  | 0xC1 => shape r TileOp.ofRaw .tzero
  | 0xC2 => shape r TileOp.ofRaw .tload
  | 0xC3 => shape r TdrainOp.ofRaw .tdrain
  | 0xC4 => shape r QpopOp.ofRaw .qpop
  | 0xC5 => shape r QstoreOp.ofRaw .qstore
  | 0xC6 => shape r QsendOp.ofRaw .qsend
  | 0xC7 => shape r QstatOp.ofRaw .qstat
  | 0xD0 => shape r NputOp.ofRaw .nput
  | 0xD1 => shape r NputOp.ofRaw .nhash
  | 0xD2 => shape r NnameOp.ofRaw .nget
  | 0xD3 => shape r NrootOp.ofRaw .nroot
  | 0xD4 => shape r NswapOp.ofRaw .nswap
  | 0xD5 => shape r NnameOp.ofRaw .npin
  | 0xD6 => shape r NnameOp.ofRaw .nunpin
  | 0xD7 => shape r NbindOp.ofRaw .nbind
  | 0xD8 => shape r NbindOp.ofRaw .nunbind
  | 0xD9 => shape r NcopyOp.ofRaw .ncopy
  | 0xDA => shape r NstatOp.ofRaw .nstat
  | 0xE0 => shape r TryOp.ofRaw .tryOp
  | 0xE1 => shape r (PlainOp.ofRaw 0) .commit
  | 0xE2 => shape r AbortOp.ofRaw .abort
  | 0xE3 => shape r TstatOp.ofRaw .tstat
  | 0xE8 => shape r SgetOp.ofRaw .sget
  | 0xE9 => shape r SsetOp.ofRaw .sset
  | 0xEA =>
    if r.fn == 0 then shape r (PlainOp.ofRaw 0) .rte
    else if r.fn == 1 then shape r (PlainOp.ofRaw 1) .rteSkip
    else if r.fn == 2 then shape r (PlainOp.ofRaw 2) .rteEnd
    else if r.fn == 3 then shape r (PlainOp.ofRaw 3) .rteAbort
    else .error .badFunction
  | 0xEB => shape r PerfOp.ofRaw .perf
  | 0xEC =>
    if r.fn == 0 then shape r DbgLogOp.ofRaw .dbgLog
    else if r.fn == 1 then shape r (PlainOp.ofRaw 1) .dbgHalt
    else .error .badFunction
  | _ => .error .reservedOpcode

/-- Decode the base word `w`; `next` is the word after it, absent when `w` is the last word of the code section (DEDUCED,
log entry 46). -/
def decode (w : DWord) (next : Option DWord) : Except DecodeError Instr :=
  match w.getLsbD 50, next with
  | true, none => .error .missingExtension
  | _, e => decodeRaw (Raw.ofWords w (e.getD 0))

/-- The fields of an instruction's word; an event or a management command has no word. -/
def Instr.toRaw : Instr → Option Raw
  | .iadd f => some (f.toRaw 0x00) | .isub f => some (f.toRaw 0x01) | .imul f => some (f.toRaw 0x02)
  | .imulhi f => some (f.toRaw 0x03) | .imad f => some (f.toRaw 0x04) | .imin f => some (f.toRaw 0x05)
  | .imax f => some (f.toRaw 0x06) | .iabs f => some (f.toRaw 0x07) | .and f => some (f.toRaw 0x08)
  | .or f => some (f.toRaw 0x09) | .xor f => some (f.toRaw 0x0A) | .andn f => some (f.toRaw 0x0B)
  | .shl f => some (f.toRaw 0x0C) | .shr f => some (f.toRaw 0x0D) | .sar f => some (f.toRaw 0x0E)
  | .rot f => some (f.toRaw 0x0F) | .popc f => some (f.toRaw 0x10) | .clz f => some (f.toRaw 0x11)
  | .brev f => some (f.toRaw 0x12) | .bfe f => some (f.toRaw 0x13) | .bfi f => some (f.toRaw 0x14)
  | .icmp f => some (f.toRaw 0x15) | .sel f => some (f.toRaw 0x16) | .mov f => some (f.toRaw 0x17)
  | .movi f => some (f.toRaw 0x18) | .lea f => some (f.toRaw 0x19) | .iaddc f => some (f.toRaw 0x1A)
  | .pset f => some f.toRaw | .dp4 f => some (f.toRaw 0x1C) | .isad f => some (f.toRaw 0x1D)
  | .fadd f => some (f.toRaw 0x20) | .fsub f => some (f.toRaw 0x21) | .fmul f => some (f.toRaw 0x22)
  | .ffma f => some (f.toRaw 0x23) | .fmin f => some (f.toRaw 0x24) | .fmax f => some (f.toRaw 0x25)
  | .frcp f => some (f.toRaw 0x26) | .frsq f => some (f.toRaw 0x27) | .fsqrt f => some (f.toRaw 0x28)
  | .fex2 f => some (f.toRaw 0x29) | .flg2 f => some (f.toRaw 0x2A) | .fsin f => some (f.toRaw 0x2B)
  | .fcos f => some (f.toRaw 0x2C) | .ftanh f => some (f.toRaw 0x2D) | .fcmp f => some (f.toRaw 0x2E)
  | .fclass f => some (f.toRaw 0x2F) | .frnd f => some (f.toRaw 0x30) | .cvt f => some (f.toRaw 0x31)
  | .fpack f => some (f.toRaw 0x32) | .hpadd f => some (f.toRaw 0x33) | .hpmul f => some (f.toRaw 0x34)
  | .hpfma f => some (f.toRaw 0x35) | .add2 f => some (f.toRaw 0x40) | .sub2 f => some (f.toRaw 0x41)
  | .max2 f => some (f.toRaw 0x42) | .min2 f => some (f.toRaw 0x43) | .sel2 f => some (f.toRaw 0x44)
  | .cmp2 f => some (f.toRaw 0x45) | .shl2 f => some (f.toRaw 0x46) | .shr2 f => some (f.toRaw 0x47)
  | .shfl f => some (f.toRaw 0x50) | .qswp f => some (f.toRaw 0x51) | .qbcast f => some (f.toRaw 0x52)
  | .vote f => some (f.toRaw 0x53) | .gred f => some (f.toRaw 0x54) | .gscan f => some (f.toRaw 0x55)
  | .lget f => some (f.toRaw 0x56) | .lput f => some (f.toRaw 0x57) | .matchOp f => some (f.toRaw 0x58)
  | .bra f => some f.toRaw | .brx f => some f.toRaw | .call f => some (f.toRaw 0x62) | .callx f => some (f.toRaw 0x63)
  | .ret f => some f.toRaw | .endOp f => some (f.toRaw 0x65) | .spawn f => some f.toRaw
  | .yield f => some (f.toRaw 0x67 0) | .nop f => some (f.toRaw 0x68 0) | .trap f => some (f.toRaw 0x69)
  | .bkpt f => some (f.toRaw 0x6A) | .npbeg f => some (f.toRaw 0x6B 0) | .npend f => some (f.toRaw 0x6C 0)
  | .ld f => some (f.toRaw 0x70) | .st f => some (f.toRaw 0x71) | .lds f => some (f.toRaw 0x72)
  | .sts f => some (f.toRaw 0x73) | .ldc f => some (f.toRaw 0x74) | .ldp f => some (f.toRaw 0x75)
  | .stp f => some (f.toRaw 0x76) | .pref f => some f.toRaw | .evict f => some f.toRaw | .fence f => some f.toRaw
  | .atom f => some (f.toRaw 0x90) | .atoms f => some (f.toRaw 0x91) | .atomp f => some (f.toRaw 0x92)
  | .acas f => some (f.toRaw 0x93) | .acass f => some (f.toRaw 0x94) | .red f => some (f.toRaw 0x95)
  | .reds f => some (f.toRaw 0x96) | .barv f => some (f.toRaw 0xA0) | .barw f => some (f.toRaw 0xA1)
  | .bars f => some (f.toRaw 0xA2) | .barq f => some (f.toRaw 0xA3) | .waitc f => some f.toRaw
  | .cpy f => some f.toRaw | .cpyx f => some (f.toRaw 0xB1) | .cpya f => some (f.toRaw 0xB2)
  | .cpyd f => some (f.toRaw 0xB3) | .chcfg f => some f.toRaw | .wmark f => some f.toRaw | .yieldc f => some f.toRaw
  | .fsend f => some (f.toRaw 0xB7) | .spred f => some (f.toRaw 0xB8) | .mma f => some f.toRaw
  | .tzero f => some (f.toRaw 0xC1) | .tload f => some (f.toRaw 0xC2) | .tdrain f => some f.toRaw
  | .qpop f => some f.toRaw | .qstore f => some f.toRaw | .qsend f => some f.toRaw | .qstat f => some f.toRaw
  | .nput f => some (f.toRaw 0xD0) | .nhash f => some (f.toRaw 0xD1) | .nget f => some (f.toRaw 0xD2)
  | .nroot f => some f.toRaw | .nswap f => some f.toRaw | .npin f => some (f.toRaw 0xD5)
  | .nunpin f => some (f.toRaw 0xD6) | .nbind f => some (f.toRaw 0xD7) | .nunbind f => some (f.toRaw 0xD8)
  | .ncopy f => some f.toRaw | .nstat f => some f.toRaw | .tryOp f => some f.toRaw | .commit f => some (f.toRaw 0xE1 0)
  | .abort f => some f.toRaw | .tstat f => some f.toRaw | .sget f => some f.toRaw | .sset f => some f.toRaw
  | .rte f => some (f.toRaw 0xEA 0) | .rteSkip f => some (f.toRaw 0xEA 1) | .rteEnd f => some (f.toRaw 0xEA 2)
  | .rteAbort f => some (f.toRaw 0xEA 3) | .perf f => some f.toRaw | .dbgLog f => some f.toRaw
  | .dbgHalt f => some (f.toRaw 0xEC 1)
  | .kick _ _ _ | .schedulingTick | .launchFetch _ _ | .launchWaitPoll _ | .translationComplete _
  | .peerTranslationTimeout _ | .reoptimise _ | .blockPlace _ | .blockRetire _ | .gridComplete _
  | .barrierPhaseComplete _ | .waitcResume _ | .yieldResume _ | .yieldcResume _ | .chcfgResume _ | .endEngineJoin _
  | .watermarkWaitEnd _ | .copyOperationStart _ _ | .copyOperationComplete _ | .arrayCommandStart _
  | .arrayCommandComplete _ | .qpopElementsReady _ | .reclaim _ | .speculationConflict _ | .pageServiceResolve _ _ _
  | .pageServiceUnresolvable _ | .faultStallTimeout _ | .nopreemptOverrun _ | .preemptionRequest _ | .preemption _
  | .unitResume _ | .timeSliceExpiry _ | .coreDrain _ _ | .laneFuse _ _ | .inFieldTest _ | .inFieldTestEnd _ _
  | .scrub _ _ _ | .phyRecalibration _ | .powerArbiterTick _ | .malletCoreFailover _ | .boot _ | .bootStepTimeout _
  | .functionLevelReset _ | .ctxCreate _ | .ctxDestroy _ | .ctxSet _ | .ctxRedundant _ | .queueEnable _
  | .queueDisable _ | .queueClearErr _ | .tlbInval _ | .fgSet _ | .domainCreate _ | .domainGrow _ | .domainDestroy _
  | .trdomSet _ | .sliceTable _ | .sliceAbort _ | .keyAdd _ | .keyRemove _ | .counterSet _ | .fwLoad _ | .dbgAttach _
  | .dbgDetach _ | .dbgResume _ | .sideRead _ | .eventRoute _ | .clusterTest _ _ | .pbudgetWrite _
  | .registerWrite _ _ | .packetReceive _ _ | .acknowledgementReceive _ _ _ | .negativeAcknowledgement _ _ _ _
  | .replayBackoffExpiry _ _ | .linkAckTimeout _ _ | .portRetrain _ | .switchMerge _ | .mergeFlushInterval _
  | .sliceEnd _ | .gangReady _ _ _ | .gangRunning _ _ _ | .gangSliceTimeout _ | .thermalLimit _ | .releaseComplete _
  | .storeEntersView _ | .reservedCommand _ _ | .msiXUnmask _ _ | .srIovEnable _ | .journalClear _ => none

/-- The encoder: the words of an instruction, the base word first. -/
def encode (i : Instr) : Option (List DWord) := i.toRaw.map Raw.words

/-- Decode the words at the head of a list: the first word, and the one after it if there is one. -/
def decodeList : List DWord → Except DecodeError Instr
  | [] => .error .missingExtension
  | w :: rest => decode w rest.head?

/-- Whether an instruction has its extension word (R30). -/
def Instr.ext (i : Instr) : Bool := match i.toRaw with | some r => r.x | none => false

/-- The instruction the decoder reads from the bits `w`, bit 0 the least significant bit of the base word, the
extension word in bits 127:64. Bits above `nbits` are 0. -/
def decodeTableWord (nbits w : Nat) : Option Instr :=
  let w := w % 2 ^ nbits
  (decode (BitVec.ofNat 64 w) (some (BitVec.ofNat 64 (w / 2 ^ 64)))).toOption

/-! ### Every constructor's decoding, from a word written out from the spec's encoding -/

/-- The word of a literal decodes to an instruction. -/
def decodesTo (w e : DWord) (i : Instr) : Bool := (decode w (some e)).toOption == some i

/-! The base word, the extension word (0 where X = 0) and the instruction of each row. -/

theorem decodes_integers : ([
    (0x0030200280030045, 0x0000000000000000, .iadd ⟨⟨3, false⟩, false, false, .i32, .rn, false, 0, 10, 3, .imm14 17, .reg 0⟩),
    (0x01F4700080040018, 0x0000200000000000, .isub ⟨⟨15, false⟩, true, false, .n64, .rn, true, 0, 2, 4, .reg 6, .reg 0⟩),
    (0x02F430023FFC0001, 0x0000000089ABCDEF, .imul ⟨⟨15, false⟩, true, false, .i64, .rn, false, 0, 8, 16380, .imm32 2309737967, .reg 0⟩),
    (0x0308600040020026, 0x0000000000000000, .imulhi ⟨⟨0, true⟩, false, false, .n32, .rn, false, 0, 1, 2, .scal 9, .reg 0⟩),
    (0x04F420014006001C, 0x0020000000000000, .imad ⟨⟨15, false⟩, true, false, .i32, .rn, false, 0, 5, 6, .reg 7, .reg 8⟩),
    (0x05F060014006000F, 0x0000000000000000, .imin ⟨⟨15, false⟩, false, false, .n32, .rn, false, 0, 5, 6, .slot 3, .reg 0⟩),
    (0x06F230014006FFFC, 0x0000000000000000, .imax ⟨⟨15, false⟩, false, true, .i64, .rn, false, 0, 5, 6, .reg 16383, .reg 0⟩),
    (0x07F42002400A0000, 0x0000200000000000, .iabs ⟨⟨15, false⟩, true, false, .i32, .rn, true, 0, 9, 10, .reg 0, .reg 0⟩)] : List (DWord × DWord × Instr)).all (fun x => decodesTo x.1 x.2.1 x.2.2) = true := by
  decide +kernel

theorem decodes_logic : ([
    (0x08F080004002000C, 0x0000000000000000, .and ⟨⟨15, false⟩, false, false, .b32, .rn, false, 0, 1, 2, .reg 3, .reg 0⟩),
    (0x09F090004002000C, 0x0000000000000000, .or ⟨⟨15, false⟩, false, false, .b64, .rn, false, 0, 1, 2, .reg 3, .reg 0⟩),
    (0x0AF4800040020001, 0x00000000FFFFFFFF, .xor ⟨⟨15, false⟩, true, false, .b32, .rn, false, 0, 1, 2, .imm32 4294967295, .reg 0⟩),
    (0x0BF2900100050018, 0x0000000000000000, .andn ⟨⟨15, false⟩, false, true, .b64, .rn, false, 0, 4, 5, .reg 6, .reg 0⟩),
    (0x0CF08001C008FFFD, 0x0000000000000000, .shl ⟨⟨15, false⟩, false, false, .b32, .rn, false, 0, 7, 8, .imm14 16383, .reg 0⟩),
    (0x0DF09001C0080024, 0x0000000000000000, .shr ⟨⟨15, false⟩, false, false, .b64, .rn, false, 0, 7, 8, .reg 9, .reg 0⟩),
    (0x0EF03001C00800FD, 0x0000000000000000, .sar ⟨⟨15, false⟩, false, false, .i64, .rn, false, 0, 7, 8, .imm14 63, .reg 0⟩),
    (0x0FF08001C008002E, 0x0000000000000000, .rot ⟨⟨15, false⟩, false, false, .b32, .rn, false, 0, 7, 8, .scal 11, .reg 0⟩)] : List (DWord × DWord × Instr)).all (fun x => decodesTo x.1 x.2.1 x.2.2) = true := by
  decide +kernel

theorem decodes_bits : ([
    (0x10F0900040020000, 0x0000000000000000, .popc ⟨⟨15, false⟩, false, false, .b64, .rn, false, 0, 1, 2, .reg 0, .reg 0⟩),
    (0x11F0800040020000, 0x0000000000000000, .clz ⟨⟨15, false⟩, false, false, .b32, .rn, false, 0, 1, 2, .reg 0, .reg 0⟩),
    (0x12F08000C0040000, 0x0000000000000000, .brev ⟨⟨15, false⟩, false, false, .b32, .rn, false, 0, 3, 4, .reg 0, .reg 0⟩),
    (0x13F02000C0042011, 0x0000000000000000, .bfe ⟨⟨15, false⟩, false, false, .i32, .rn, false, 0, 3, 4, .imm14 2052, .reg 0⟩),
    (0x14F49000C0040001, 0x0014000000000804, .bfi ⟨⟨15, false⟩, true, false, .b64, .rn, false, 0, 3, 4, .imm32 2052, .reg 5⟩),
    (0x15F4200140010001, 0x0000030000000002, .icmp ⟨⟨15, false⟩, true, false, .i32, .rn, false, 3, 5, 1, .imm32 2, .reg 0⟩),
    (0x16F480014006001C, 0x0010000000000000, .sel ⟨⟨15, false⟩, true, false, .b32, .rn, false, 0, 5, 6, .reg 7, .reg 4⟩),
    (0x17F090014000001C, 0x0000000000000000, .mov ⟨⟨15, false⟩, false, false, .b64, .rn, false, 0, 5, 0, .reg 7, .reg 0⟩),
    (0x18F4900140000001, 0x0000010012345678, .movi ⟨⟨15, false⟩, true, false, .b64, .rn, false, 1, 5, 0, .imm32 305419896, .reg 0⟩)] : List (DWord × DWord × Instr)).all (fun x => decodesTo x.1 x.2.1 x.2.2) = true := by
  decide +kernel

theorem decodes_addresses : ([
    (0x19F4200180020010, 0x0000020000000000, .lea ⟨⟨15, false⟩, true, false, .i32, .rn, false, 2, 6, 2, .reg 4, .reg 0⟩),
    (0x1AF4700080040018, 0x000C070000000000, .iaddc ⟨⟨15, false⟩, true, false, .n64, .rn, false, 7, 2, 4, .reg 6, .reg 3⟩),
    (0x1CF4400080040018, 0x0020200000000000, .dp4 ⟨⟨15, false⟩, true, false, .n8, .rn, true, 0, 2, 4, .reg 6, .reg 8⟩),
    (0x1DF4400080040018, 0x0020000000000000, .isad ⟨⟨15, false⟩, true, false, .n8, .rn, false, 0, 2, 4, .reg 6, .reg 8⟩),
    (0x1B5C80004002000C, 0x00100000000000CA, .pset ⟨⟨5, true⟩, 1, 2, 3, 4, 0xCA⟩)] : List (DWord × DWord × Instr)).all (fun x => decodesTo x.1 x.2.1 x.2.2) = true := by
  decide +kernel

theorem decodes_floats : ([
    (0x20F4A00040020001, 0x000080003F800000, .fadd ⟨⟨15, false⟩, true, false, .f32, .ru, false, 0, 1, 2, .imm32 1065353216, .reg 0⟩),
    (0x21F4B00040020001, 0x0000200000003C00, .fsub ⟨⟨15, false⟩, true, false, .f16, .rn, true, 0, 1, 2, .imm32 15360, .reg 0⟩),
    (0x22F2C0004002000C, 0x0000000000000000, .fmul ⟨⟨15, false⟩, false, true, .bf16, .rn, false, 0, 1, 2, .reg 3, .reg 0⟩),
    (0x231CA00500150058, 0x005CC00000000000, .ffma ⟨⟨1, true⟩, true, false, .f32, .rd, false, 0, 20, 21, .reg 22, .reg 23⟩),
    (0x24F4A0004002000C, 0x0000010000000000, .fmin ⟨⟨15, false⟩, true, false, .f32, .rn, false, 1, 1, 2, .reg 3, .reg 0⟩),
    (0x25F0B0004002000C, 0x0000000000000000, .fmax ⟨⟨15, false⟩, false, false, .f16, .rn, false, 0, 1, 2, .reg 3, .reg 0⟩),
    (0x2EF4A0010002000E, 0x00000E0000000000, .fcmp ⟨⟨15, false⟩, true, false, .f32, .rn, false, 14, 4, 2, .scal 3, .reg 0⟩),
    (0x2FF0C00100020FFD, 0x0000000000000000, .fclass ⟨⟨15, false⟩, false, false, .bf16, .rn, false, 0, 4, 2, .imm14 1023, .reg 0⟩),
    (0x30F4B00100020000, 0x0000400000000000, .frnd ⟨⟨15, false⟩, true, false, .f16, .rz, false, 0, 4, 2, .reg 0, .reg 0⟩)] : List (DWord × DWord × Instr)).all (fun x => decodesTo x.1 x.2.1 x.2.2) = true := by
  decide +kernel

theorem decodes_approximations : ([
    (0x26F0A00780280000, 0x0000000000000000, .frcp ⟨⟨15, false⟩, false, false, .f32, .rn, false, 0, 30, 40, .reg 0, .reg 0⟩),
    (0x27F4A007C0290000, 0x0000200000000000, .frsq ⟨⟨15, false⟩, true, false, .f32, .rn, true, 0, 31, 41, .reg 0, .reg 0⟩),
    (0x28F4A008002A0000, 0x0000400000000000, .fsqrt ⟨⟨15, false⟩, true, false, .f32, .rz, false, 0, 32, 42, .reg 0, .reg 0⟩),
    (0x29F0A008402B0000, 0x0000000000000000, .fex2 ⟨⟨15, false⟩, false, false, .f32, .rn, false, 0, 33, 43, .reg 0, .reg 0⟩),
    (0x2AF0A008802C0000, 0x0000000000000000, .flg2 ⟨⟨15, false⟩, false, false, .f32, .rn, false, 0, 34, 44, .reg 0, .reg 0⟩),
    (0x2BF0A008C02D0000, 0x0000000000000000, .fsin ⟨⟨15, false⟩, false, false, .f32, .rn, false, 0, 35, 45, .reg 0, .reg 0⟩),
    (0x2CF0A009002E0000, 0x0000000000000000, .fcos ⟨⟨15, false⟩, false, false, .f32, .rn, false, 0, 36, 46, .reg 0, .reg 0⟩),
    (0x2DF0A009402F0000, 0x0000000000000000, .ftanh ⟨⟨15, false⟩, false, false, .f32, .rn, false, 0, 37, 47, .reg 0, .reg 0⟩)] : List (DWord × DWord × Instr)).all (fun x => decodesTo x.1 x.2.1 x.2.2) = true := by
  decide +kernel

theorem decodes_conversions : ([
    (0x31F4E00100020000, 0x00002D0000000000, .cvt ⟨⟨15, false⟩, true, false, .e5m2, .rn, true, 13, 4, 2, .reg 0, .reg 0⟩),
    (0x32F4D0010002000C, 0x0018010000000000, .fpack ⟨⟨15, false⟩, true, false, .e4m3, .rn, false, 1, 4, 2, .reg 3, .reg 6⟩),
    (0x33F510010002000C, 0x0000400000000000, .hpadd ⟨⟨15, false⟩, true, false, .f16x2, .rz, false, 0, 4, 2, .reg 3, .reg 0⟩),
    (0x34F5200100020001, 0x000000003F803F80, .hpmul ⟨⟨15, false⟩, true, false, .bf16x2, .rn, false, 0, 4, 2, .imm32 1065369472, .reg 0⟩),
    (0x35F510010002000C, 0x001A200000000000, .hpfma ⟨⟨15, false⟩, true, false, .f16x2, .rn, true, 0, 4, 2, .reg 3, .scal 6⟩)] : List (DWord × DWord × Instr)).all (fun x => decodesTo x.1 x.2.1 x.2.2) = true := by
  decide +kernel

theorem decodes_packed : ([
    (0x40F530010002000C, 0x0000200000000000, .add2 ⟨⟨15, false⟩, true, false, .i16x2, .rn, true, 0, 4, 2, .reg 3, .reg 0⟩),
    (0x41F140010002000C, 0x0000000000000000, .sub2 ⟨⟨15, false⟩, false, false, .n16x2, .rn, false, 0, 4, 2, .reg 3, .reg 0⟩),
    (0x42F130010002000C, 0x0000000000000000, .max2 ⟨⟨15, false⟩, false, false, .i16x2, .rn, false, 0, 4, 2, .reg 3, .reg 0⟩),
    (0x43F140010002000C, 0x0000000000000000, .min2 ⟨⟨15, false⟩, false, false, .n16x2, .rn, false, 0, 4, 2, .reg 3, .reg 0⟩),
    (0x44F530010002000C, 0x0024000000000000, .sel2 ⟨⟨15, false⟩, true, false, .i16x2, .rn, false, 0, 4, 2, .reg 3, .reg 9⟩),
    (0x45F540010002000C, 0x0000050000000000, .cmp2 ⟨⟨15, false⟩, true, false, .n16x2, .rn, false, 5, 4, 2, .reg 3, .reg 0⟩),
    (0x46F130010002000C, 0x0000000000000000, .shl2 ⟨⟨15, false⟩, false, false, .i16x2, .rn, false, 0, 4, 2, .reg 3, .reg 0⟩),
    (0x47F140010002000C, 0x0000000000000000, .shr2 ⟨⟨15, false⟩, false, false, .n16x2, .rn, false, 0, 4, 2, .reg 3, .reg 0⟩)] : List (DWord × DWord × Instr)).all (fun x => decodesTo x.1 x.2.1 x.2.2) = true := by
  decide +kernel

theorem decodes_lanes : ([
    (0x50F0900100060005, 0x0000000000000000, .shfl ⟨⟨15, false⟩, false, false, .b64, .rn, false, 0, 4, 6, .imm14 1, .reg 0⟩),
    (0x51F4800100060000, 0x0000020000000000, .qswp ⟨⟨15, false⟩, true, false, .b32, .rn, false, 2, 4, 6, .reg 0, .reg 0⟩),
    (0x52F4800100060000, 0x0000030000000000, .qbcast ⟨⟨15, false⟩, true, false, .b32, .rn, false, 3, 4, 6, .reg 0, .reg 0⟩),
    (0x53F48FFFC0060000, 0x0000020000000000, .vote ⟨⟨15, false⟩, true, false, .b32, .rn, false, 2, 16383, 6, .reg 0, .reg 0⟩),
    (0x54F4A00100060000, 0x0000020000000000, .gred ⟨⟨15, false⟩, true, false, .f32, .rn, false, 2, 4, 6, .reg 0, .reg 0⟩),
    (0x55F4600100060000, 0x0000280000000000, .gscan ⟨⟨15, false⟩, true, false, .n32, .rn, true, 8, 4, 6, .reg 0, .reg 0⟩),
    (0x56F090010006007D, 0x0000000000000000, .lget ⟨⟨15, false⟩, false, false, .b64, .rn, false, 0, 4, 6, .imm14 31, .reg 0⟩),
    (0x57F080010006001C, 0x0000000000000000, .lput ⟨⟨15, false⟩, false, false, .b32, .rn, false, 0, 4, 6, .reg 7, .reg 0⟩),
    (0x58F4900100060000, 0x0000010000000000, .matchOp ⟨⟨15, false⟩, true, false, .b64, .rn, false, 1, 4, 6, .reg 0, .reg 0⟩)] : List (DWord × DWord × Instr)).all (fun x => decodesTo x.1 x.2.1 x.2.2) = true := by
  decide +kernel

theorem decodes_control : ([
    (0x602C000000000000, 0x00000000FFFFFFF8, .bra ⟨⟨2, true⟩, 0xFFFFFFF8⟩),
    (0x6124000000090000, 0x000000000000000C, .brx ⟨⟨2, false⟩, 9, 12⟩),
    (0x62F51005000A0010, 0x002041000000005E, .call ⟨⟨15, false⟩, 2, 1, 4, 1, 20, 10, 4, 8, 94⟩),
    (0x63F7E01900C804B0, 0x0640FE000000004D, .callx ⟨⟨15, false⟩, 7, 6, 15, 14, 100, 200, 300, 400, 77⟩),
    (0x64F4300000050018, 0x0000020000000000, .ret ⟨⟨15, false⟩, true, 3, 2, 5, 6⟩),
    (0x6548000000000000, 0x0000000000000000, .endOp ⟨⟨4, true⟩, false⟩),
    (0x66F40000C0040021, 0x0000000000000002, .spawn ⟨3, 4, .imm14 8, 2⟩),
    (0x67F0000000000000, 0x0000000000000000, .yield ⟨false⟩),
    (0x68F0000000000000, 0x0000000000000000, .nop ⟨false⟩),
    (0x6BF0000000000000, 0x0000000000000000, .npbeg ⟨false⟩),
    (0x6CF0000000000000, 0x0000000000000000, .npend ⟨false⟩),
    (0x6914000000000000, 0x000000000000BEEF, .trap ⟨⟨1, false⟩, true, 0xBEEF⟩),
    (0x6AF0000000000000, 0x0000000000000000, .bkpt ⟨⟨15, false⟩, false, 0⟩)] : List (DWord × DWord × Instr)).all (fun x => decodesTo x.1 x.2.1 x.2.2) = true := by
  decide +kernel

theorem decodes_memory : ([
    (0x70F5A00100060008, 0x0000800000000040, .ld ⟨⟨15, false⟩, true, .i16, .once, false, false, 4, 6, (.vec 2 2 64)⟩),
    (0x71F690010006000A, 0x0000E000FFFFFFF0, .st ⟨⟨15, false⟩, true, .b64, .die, true, false, 4, 6, (.scal 2 3 4294967280)⟩),
    (0x727200010006FFFD, 0x0000000000000000, .lds ⟨⟨7, false⟩, false, .b32, .near, false, false, 4, 6, (.off14 16383)⟩),
    (0x73F000010006000C, 0x0000000000000000, .sts ⟨⟨15, false⟩, false, .n8, .near, false, false, 4, 6, (.vec 3 0 0)⟩),
    (0x74F4800100060001, 0x0000100080000000, .ldc ⟨⟨15, false⟩, true, .i8, .near, false, true, 4, 6, (.off32 0 2147483648)⟩),
    (0x75F5000100060001, 0x0000000000000040, .ldp ⟨⟨15, false⟩, true, .n16, .near, false, false, 4, 6, (.off32 0 64)⟩),
    (0x76F6000100060016, 0x0000500000000008, .stp ⟨⟨15, false⟩, true, .b32, .near, false, true, 4, 6, (.scal 5 1 8)⟩),
    (0x77F4300000060008, 0x0000600000000009, .pref ⟨⟨15, false⟩, true, .home, true, 6, .vec 2 1 9⟩),
    (0x78F4000000060001, 0x0000010000000080, .evict (.line ⟨15, false⟩ true true false 6 (.off32 0 128))),
    (0x79F6C00000000000, 0x0000090000000000, .fence ⟨.sys, .sc, 9⟩)] : List (DWord × DWord × Instr)).all (fun x => decodesTo x.1 x.2.1 x.2.2) = true := by
  decide +kernel

theorem decodes_atomics : ([
    (0x90F6300100060008, 0x04188F0000000000, .atom ⟨⟨15, false⟩, .dom, .ar, false, false, 15, 4, 6, (.vec 2 2 0), false, .dec, .n32⟩),
    (0x91F4000100060001, 0x0324000000000008, .atoms ⟨⟨15, false⟩, .grp, .relaxed, false, false, 0, 4, 6, (.off32 0 8), false, .exch, .b64⟩),
    (0x92F510010006000A, 0x0128140000000000, .atomp ⟨⟨15, false⟩, .clu, .acq, false, true, 4, 4, 6, (.scal 2 0 0), false, .max, .f32⟩),
    (0x93F6C00100060008, 0x0024E20000000000, .acas ⟨⟨15, false⟩, .sys, .sc, true, false, 2, 4, 6, (.vec 2 3 0), false, .add, .b64⟩),
    (0x94F4A00100060001, 0x8020010000000004, .acass ⟨⟨15, false⟩, .blk, .rel, false, false, 1, 4, 6, (.off32 0 4), true, .add, .b32⟩),
    (0x95F5800100060008, 0x0048800000000000, .red ⟨⟨15, false⟩, .dev, .relaxed, false, false, 0, 4, 6, (.vec 2 2 0), false, .add, .bf16x2⟩),
    (0x96F4A00100060008, 0x82A0010000000000, .reds ⟨⟨15, false⟩, .blk, .rel, false, false, 1, 4, 6, (.vec 2 0 0), true, .xor, .b32⟩)] : List (DWord × DWord × Instr)).all (fun x => decodesTo x.1 x.2.1 x.2.2) = true := by
  decide +kernel

theorem decodes_barriers : ([
    (0xA0F50001C0000000, 0x0000050000000003, .barv ⟨.clu, 5, 3, 7, 0⟩),
    (0xA1F5800000080000, 0x0000020000000001, .barw ⟨.grid, 2, 1, 0, 8⟩),
    (0xA2F4800000000000, 0x000004000000000F, .bars ⟨.blk, 4, 15, 0, 0⟩),
    (0xA3F48001C0080000, 0x0000010000000009, .barq ⟨.blk, 1, 9, 7, 8⟩),
    (0xA4F4000000000000, 0x0000000004030201, .waitc ⟨1, 2, 3, 4⟩)] : List (DWord × DWord × Instr)).all (fun x => decodesTo x.1 x.2.1 x.2.2) = true := by
  decide +kernel

theorem decodes_copies : ([
    (0xB0F45002800B0030, 0x0000320000000000, .cpy ⟨true, 5, .bstore, .peer, 10, 11, .reg 12⟩),
    (0xB1F0100000140000, 0x0000000000000000, .cpyx ⟨false, 1, 20, false, false⟩),
    (0xB2F4200000150000, 0x0000010000000000, .cpya ⟨true, 2, 21, true, false⟩),
    (0xB3F4300000160000, 0x0000100000000000, .cpyd ⟨true, 3, 22, false, true⟩),
    (0xB4F4700000040014, 0x000001000000FFFF, .chcfg ⟨true, 7, 4, 5, .own, 0xFFFF⟩),
    (0xB5F4600240000000, 0x0000010000000000, .wmark ⟨true, 6, 9, true⟩),
    (0xB6F4400000000000, 0x0000000000000010, .yieldc ⟨4, 16⟩),
    (0xB7F4300140060001, 0x0000000000001000, .fsend ⟨true, 3, 5, 6, .imm32 0x1000, false⟩),
    (0xB8F420014006001C, 0x0000010000000000, .spred ⟨true, 2, 5, 6, .reg 7, true⟩)] : List (DWord × DWord × Instr)).all (fun x => decodesTo x.1 x.2.1 x.2.2) = true := by
  decide +kernel

theorem decodes_matrix : ([
    (0xC0F40003C0040018, 0x0020010000000000, .mma ⟨15, 4, 6, 8, true⟩),
    (0xC1F00000C0000000, 0x0000000000000000, .tzero ⟨false, 3, 0⟩),
    (0xC2F00000C0100000, 0x0000000000000000, .tload ⟨false, 3, 16⟩),
    (0xC3F4E00080000000, 0x0000AC00007E4020, .tdrain ⟨6, true, 2, .ru, true, .bf16, 0x20, 0x40, 0x7E⟩),
    (0xC428700840000000, 0x0000000000000000, .qpop ⟨⟨2, true⟩, false, 7, 33⟩),
    (0xC5F4100000040001, 0x0000010000010000, .qstore ⟨true, 1, 4, .imm32 65536, true⟩),
    (0xC6F020014000001C, 0x0000000000000000, .qsend ⟨false, 2, 5, .reg 7⟩),
    (0xC7F4300100000000, 0x000001000000000B, .qstat ⟨true, 3, 4, true, 11⟩)] : List (DWord × DWord × Instr)).all (fun x => decodesTo x.1 x.2.1 x.2.2) = true := by
  decide +kernel

theorem decodes_names : ([
    (0xD0F4100500040000, 0x0008000000000003, .nput ⟨true, 20, 4, 2, 3⟩),
    (0xD1F4000500040000, 0x003C00000000000F, .nhash ⟨false, 20, 4, 15, 15⟩),
    (0xD2F40002000A0000, 0x0000000000000006, .nget ⟨true, 8, 10, 6⟩),
    (0xD3F6100780060000, 0x0000180000000000, .nroot ⟨true, .dom, .acq, 8, true, 30, 6⟩),
    (0xD4F5B00A00080030, 0x0004020000000000, .nswap ⟨.dev, .ar, 2, 40, 8, 12, 1⟩),
    (0xD5F40FFFC0050000, 0x0000000000000002, .npin ⟨true, 16383, 5, 2⟩),
    (0xD6F4000180070000, 0x0000000000000000, .nunpin ⟨true, 6, 7, 0⟩),
    (0xD7F000004002000C, 0x0000000000000000, .nbind ⟨false, 1, 2, 3⟩),
    (0xD8F0000040020000, 0x0000000000000000, .nunbind ⟨false, 1, 2, 0⟩),
    (0xD9F4600040020000, 0x0000100000000004, .ncopy ⟨true, 6, 1, 2, .own, 4⟩),
    (0xDAF4000040020000, 0x0000020000000005, .nstat ⟨true, 1, 2, .pins, 5⟩)] : List (DWord × DWord × Instr)).all (fun x => decodesTo x.1 x.2.1 x.2.2) = true := by
  decide +kernel

theorem decodes_regions : ([
    (0xE0F4100000000000, 0x0000000000000036, .tryOp ⟨true, 0x36⟩),
    (0xE1F0000000000000, 0x0000000000000000, .commit ⟨false⟩),
    (0xE224000000000000, 0x000000000000002A, .abort ⟨⟨2, false⟩, true, 0x2A⟩),
    (0xE3F4000240000000, 0x0000020000000000, .tstat ⟨true, 9, .mask⟩)] : List (DWord × DWord × Instr)).all (fun x => decodesTo x.1 x.2.1 x.2.2) = true := by
  decide +kernel

theorem decodes_system : ([
    (0xE8F2000240180000, 0x0000000000000000, .sget ⟨⟨15, false⟩, false, true, 9, .clock⟩),
    (0xE9F0000A00000050, 0x0000000000000000, .sset ⟨false, .stkptr, .reg 20⟩),
    (0xEAF0000000000000, 0x0000000000000000, .rte ⟨false⟩),
    (0xEAF0100000000000, 0x0000000000000000, .rteSkip ⟨false⟩),
    (0xEAF0200000000000, 0x0000000000000000, .rteEnd ⟨false⟩),
    (0xEAF0300000000000, 0x0000000000000000, .rteAbort ⟨false⟩),
    (0xEBF01001C0000009, 0x0000000000000000, .perf ⟨false, true, 7, .imm14 2⟩),
    (0xECF4000000040000, 0x0000000000000007, .dbgLog ⟨true, 4, 7⟩),
    (0xECF0100000000000, 0x0000000000000000, .dbgHalt ⟨false⟩)] : List (DWord × DWord × Instr)).all (fun x => decodesTo x.1 x.2.1 x.2.2) = true := by
  decide +kernel

end Sys2Proof
end

