-- ==== Sys2Proof/Config.lean ====
section
/-! DEFINITION. What an implementation fixes and what the spec leaves open: constants without a value, so that no proof
can see one. Each is named in the assumption log. -/

namespace Sys2Proof

/-- The n-th free choice of a run (DESIGN CHOICE, log entry 1): which enabled agent moves next (R12, R134), which store a load that
misses its view returns (R166), cycle counts (R344), and every other value the spec leaves open. -/
opaque Config.freeNat : Nat → Nat

/-- The selector of an approximating entry (DESIGN CHOICE, log entry 2): for the function numbered by the first argument and a binary32
operand, which of the results within the bound of R91 this chip gives. The same on every core (R86). -/
opaque Config.approxSel : Nat → BitVec 32 → Nat

/-- The parts of a firmware image (R391; DESIGN CHOICE, log entry 3): its signature block in the layout of R49, the bytes that the
signatures cover, and its security version. The image format is not given by the spec. -/
opaque Config.firmwareParts : List Byte → List Byte × List Byte × Nat

/-- The public keys of the two fused key-store entries (R390; DESIGN CHOICE, log entry 3): Ed25519, then ML-DSA-65. -/
opaque Config.fusedKeys : List Byte × List Byte

/-- Whether the part is a module (ordering code GWF-FZ9-M) and not a package (R1, R397; DESIGN CHOICE, log entry 4). -/
opaque Config.isModule : Bool

/-- The lane fuses blown before shipment (R1, R26, R393; DESIGN CHOICE, log entry 4): the `lmap` of each physical core at boot. -/
opaque Config.fusedLmap : Nat → BitVec 64

/-- What native code the translator made (R326; DESIGN CHOICE, log entry 26): for the key of a translation and a number, a value that
its side-table records are read from. -/
opaque Config.nativeCode : List Byte → Nat → Nat

/-- The ports through which a package is reached, in order of choice (R232, R372; DESIGN CHOICE, log entry 72): no rule says how
ports are cabled. -/
opaque Config.routes : Nat → List Nat

/-- The switch's egress port towards a package (R229; DESIGN CHOICE, log entry 72). -/
opaque Config.egressPort : Nat → Nat

/-- The packages of a gang's other members (R373; DESIGN CHOICE, log entry 23): no command of R369 names them. -/
opaque Config.gangMembers : Nat → List Nat

end Sys2Proof
end

