-- ==== Sys2Proof/Machine/Blake3.lean ====
section
/-! DEFINITION. BLAKE3, plain and keyed, as its published specification defines it: the spec names it for the hashes of
named lines (R275), key identifiers (R390) and translations (R328). -/

namespace Sys2Proof.Machine

/-! ### Bytes (R3) -/

/-- The bytes of a value, least significant first. -/
def leBytes : Nat → Nat → List Byte
  | 0, _ => []
  | n + 1, v => BitVec.ofNat 8 v :: leBytes n (v / 256)

/-- The value of bytes, least significant first. -/
def leVal : List Byte → Nat
  | [] => 0
  | b :: t => b.toNat + 256 * leVal t

namespace Blake3

/-- The initial words. -/
def iv : List Word :=
  [0x6A09E667, 0xBB67AE85, 0x3C6EF372, 0xA54FF53A, 0x510E527F, 0x9B05688C, 0x1F83D9AB, 0x5BE0CD19]

/-- The message permutation between rounds. -/
def perm : List Nat := [2, 6, 3, 10, 7, 0, 4, 13, 1, 11, 12, 5, 9, 14, 15, 8]

/-- The eight mixes of a round: first the columns, then the diagonals; mix i uses message words 2i and 2i + 1. -/
def mixes : List (Nat × Nat × Nat × Nat) :=
  [(0, 4, 8, 12), (1, 5, 9, 13), (2, 6, 10, 14), (3, 7, 11, 15),
   (0, 5, 10, 15), (1, 6, 11, 12), (2, 7, 8, 13), (3, 4, 9, 14)]

/-- Word `i` of a list. -/
def at_ (v : List Word) (i : Nat) : Word := (v[i]?).getD 0

/-- Half a mix: with rotations `r1` and `r2`. -/
def halfMix (v : List Word) (q : Nat × Nat × Nat × Nat) (x : Word) (r1 r2 : Nat) : List Word :=
  let (a, b, c, d) := q
  let va := at_ v a + at_ v b + x
  let vd := (at_ v d ^^^ va).rotateRight r1
  let vc := at_ v c + vd
  let vb := (at_ v b ^^^ vc).rotateRight r2
  (((v.set a va).set d vd).set c vc).set b vb

/-- One round. -/
def round (v m : List Word) : List Word :=
  (mixes.zipIdx).foldl (fun v (q, i) => halfMix (halfMix v q (at_ m (2 * i)) 16 12) q (at_ m (2 * i + 1)) 8 7) v

/-- `n` rounds, with the message permuted after each. -/
def rounds : Nat → List Word → List Word → List Word
  | 0, v, _ => v
  | n + 1, v, m => rounds n (round v m) (perm.map fun k => at_ m k)

/-- The compression function: chaining value, message, counter, block length, flags. -/
def compress (cv m : List Word) (counter len flags : Nat) : List Word :=
  let v := cv ++ iv.take 4 ++
    [BitVec.ofNat 32 counter, BitVec.ofNat 32 (counter / 2 ^ 32), BitVec.ofNat 32 len, BitVec.ofNat 32 flags]
  let v := rounds 7 v m
  (List.range 8).map (fun i => at_ v i ^^^ at_ v (i + 8)) ++ (List.range 8).map fun i => at_ v (i + 8) ^^^ at_ cv i

/-- The inputs of a compression that is not yet made. -/
structure Pending where
  cv : List Word
  m : List Word
  counter : Nat
  len : Nat
  flags : Nat

/-- The chaining value of a pending compression. -/
def Pending.chain (p : Pending) : List Word := (compress p.cv p.m p.counter p.len p.flags).take 8

/-- A block of at most 64 bytes as 16 words, padded with zeros. -/
def blockWords (bs : List Byte) : List Word :=
  (List.range 16).map fun i => BitVec.ofNat 32 (leVal ((bs.drop (4 * i)).take 4))

/-- A chunk of at most 1,024 bytes: the last block's compression is left pending. `n` bounds the blocks. -/
def chunk (index flags : Nat) : Nat → List Word → List Byte → Bool → Pending
  | 0, cv, bs, _ => ⟨cv, blockWords bs, index, bs.length, flags⟩
  | n + 1, cv, bs, first =>
    let f := flags + if first then 1 else 0
    if bs.length ≤ 64 then ⟨cv, blockWords bs, index, bs.length, f + 2⟩
    else chunk index flags n ((compress cv (blockWords (bs.take 64)) index 64 f).take 8) (bs.drop 64) false

/-- The largest power of two below `n`, for n above 1. -/
def leftChunks (n : Nat) : Nat := 2 ^ Nat.log2 (n - 1)

/-- A subtree of `n` chunks from chunk `first` on. `fuel` bounds its height. -/
def node (key : List Word) (flags : Nat) : Nat → Nat → Nat → List Byte → Pending
  | 0, first, _, bs => chunk first flags 16 key bs true
  | fuel + 1, first, n, bs =>
    if n ≤ 1 then chunk first flags 16 key bs true
    else
      let k := leftChunks n
      let l := (node key flags fuel first k (bs.take (1024 * k))).chain
      let r := (node key flags fuel (first + k) (n - k) (bs.drop (1024 * k))).chain
      ⟨key, l ++ r, 0, 64, flags + 4⟩

/-- The 32-byte hash with a key and the mode's flags. -/
def hashWith (key : List Word) (flags : Nat) (bs : List Byte) : List Byte :=
  let p := node key flags 54 0 (max 1 ((bs.length + 1023) / 1024)) bs
  ((compress p.cv p.m 0 p.len (p.flags + 8)).take 8).flatMap fun w => leBytes 4 w.toNat

/-- The plain hash. -/
def hash (bs : List Byte) : List Byte := hashWith iv 0 bs

/-- The keyed hash with a 32-byte key. -/
def keyedHash (key bs : List Byte) : List Byte := hashWith ((blockWords key).take 8) 16 bs

end Blake3

/-- HASH of a line of kind `k` in a domain (R275): output bytes 0 to 14 of the keyed hash of its bytes and its kind. -/
def lineHash (key line : List Byte) (k : Nat) : Nat :=
  leVal ((Blake3.keyedHash key (line ++ [BitVec.ofNat 8 k])).take 15)

end Sys2Proof.Machine
end

