-- ==== Sys2Proof/Machine/Tab.lean ====
section
/-! DEFINITION. Sparse tables: lists of (key, value) pairs with strictly rising keys, and the canonical byte memory. -/

namespace Sys2Proof

/-- A sparse table. An unlisted key reads as a default. -/
abbrev Tab (α : Type) := List (Nat × α)

namespace Tab

/-- The value of a key, if it is listed. -/
def find? {α : Type} : Tab α → Nat → Option α
  | [], _ => none
  | (j, v) :: t, k => if j = k then some v else find? t k

/-- The value of a key, or the default. -/
def get {α : Type} (d : α) (t : Tab α) (k : Nat) : α := (find? t k).getD d

/-- Write a key, keeping the keys strictly rising. -/
def put {α : Type} : Tab α → Nat → α → Tab α
  | [], k, v => [(k, v)]
  | (j, w) :: t, k, v => if k < j then (k, v) :: (j, w) :: t else if k = j then (k, v) :: t else (j, w) :: put t k v

/-- Remove a key. -/
def erase {α : Type} : Tab α → Nat → Tab α
  | [], _ => []
  | (j, w) :: t, k => if k = j then t else (j, w) :: erase t k

/-- Change every value. -/
def mapVals {α : Type} (f : Nat → α → α) (t : Tab α) : Tab α := t.map fun (k, v) => (k, f k v)

/-- The least key that is not listed and is at least `n`. -/
def fresh {α : Type} (t : Tab α) : Nat := t.foldl (fun n (k, _) => max n (k + 1)) 0

/-- The keys rise strictly. -/
def rising {α : Type} : Tab α → Bool
  | [] => true
  | [_] => true
  | (j, _) :: (k, w) :: t => decide (j < k) && rising ((k, w) :: t)

end Tab

/-- A byte memory: cells with strictly rising addresses, none of them 0, which is what an unlisted address reads as
(DESIGN CHOICE, log entry 5). -/
abbrev Cells := List Host.Cell

/-- The byte at an address. -/
def Cells.get (m : Cells) (a : Nat) : Byte := Tab.get 0 m a

/-- Write one byte; writing 0 removes the entry. -/
def Cells.set (m : Cells) (a : Nat) (v : Byte) : Cells := if v = 0 then Tab.erase m a else Tab.put m a v

/-- The canonical form of the memory. -/
def Memory.wf (m : Cells) : Bool := Tab.rising m && m.all fun (_, v) => v != 0

/-- A set of byte addresses, as a rising list. -/
abbrev AddrSet := Tab Unit

/-- Set or clear membership of an address. -/
def AddrSet.set (m : AddrSet) (a : Nat) (on : Bool) : AddrSet := if on then Tab.put m a () else Tab.erase m a

/-- Membership of an address. -/
def AddrSet.has (m : AddrSet) (a : Nat) : Bool := (Tab.find? m a).isSome

end Sys2Proof
end

