-- ==== Sys2Proof/Machine/State.lean ====
section
/-! DEFINITION. The state of the package as plain data: groups and their registers, blocks, launches, contexts, cores and
their views of memory, engines, named lines, and the host's and the fabric's registers. -/

namespace Sys2Proof.Machine

/-- Why a step stops with a fault. Every fault of R54 is architectural and is taken as a next state (R331). -/
inductive Fault
  /-- Raised by `step` when the word at a PC inside its body does not decode. R45 rejects such a kernel at load, so no run
  reaches it. Safe. -/
  | undecodable
  deriving DecidableEq, Repr

/-- Why an instruction has no meaning. -/
inductive Refusal
  /-- Raised by an arm of `exec` whose instruction has no meaning in this model yet. Safe. -/
  | notModelled (mnemonic : String)
  deriving DecidableEq, Repr

/-! ### Kernel objects (R46, R47) -/

/-- An ENTRY record: word offset and kind (R47). -/
structure EntryRec where
  woff : Nat
  kind : Nat
  deriving DecidableEq, Repr

/-- What a checked kernel object gives a launch. `consts` is its CONST section. -/
structure Kernel where
  ver : Nat := 3
  l16 : Bool := false
  cosched : Bool := false
  secver : Nat := 0
  code : List DWord := []
  entries : List EntryRec := []
  idem : List (Nat × Nat) := []
  bx : Nat := 32
  bY : Nat := 1
  bz : Nat := 1
  scratch : Nat := 0
  tiles : Nat := 0
  lentry : Nat := 0
  constlen : Nat := 0
  consts : List Byte := []
  hasData : Bool := false
  deriving DecidableEq, Repr

/-! ### Registers and groups (R23, R35, R120, R303) -/

/-- The registers of one function frame: vectors at key 32 * index + lane, scalars and predicates at their index. -/
structure Regs where
  v : Tab Word := []
  s : Tab DWord := []
  p : Tab Mask := []
  deriving DecidableEq, Repr

/-- The ranges of a call (R127, R139): first indices and counts. -/
structure CallRanges where
  d : Nat
  nr : Nat
  a : Nat
  na : Nat
  b : Nat
  ns : Nat
  c : Nat
  nsr : Nat
  deriving DecidableEq, Repr

/-- A frame entry: return PC, the caller's mask, registers and body, the ranges, the lanes that have returned, and the
calls of a CALLX still to make (target byte, lanes). -/
structure Frame where
  ret : Nat
  exec : Mask
  regs : Regs
  body : Nat
  rng : CallRanges
  returned : Mask
  more : List (Nat × Mask)
  deriving DecidableEq, Repr

/-- Entries of the reconvergence stack (R123, R139, R305); the head of a list is the top. A pending entry notes whether
it starts at an abort target (R311). -/
inductive Entry
  | join (pc : Nat) (mask : Mask)
  | pending (pc : Nat) (mask : Mask) (aborted : Bool)
  | tryE (target : Nat)
  | frame (f : Frame)
  deriving DecidableEq, Repr

/-- The control state and registers that an instruction runs on: the group's own, or its handler's (R120, R335).
`body` is the word at which the current body starts (R126). -/
structure Thread where
  pc : Nat := 0
  body : Nat := 0
  exec : Mask := 0
  live : Mask := 0
  strand : Mask := 0
  ended : Mask := 0
  /-- helper and absent lanes (R104): never in `exec` -/
  outside : Mask := 0
  regs : Regs := {}
  stack : List Entry := []
  depth : Nat := 0
  deriving DecidableEq, Repr

/-- A fault being handled or waiting for service (R331): code, `faultva`, lanes, trap code, the reported byte offset,
where `rte` and `rte.skip` go, the lanes it killed, and whether it was delivered at a join. -/
structure FaultInfo where
  code : Nat
  va : BitVec 64
  lanes : Mask
  trap : Word
  pc : Nat
  rte : Nat
  skip : Nat
  killed : Mask
  join : Bool
  deriving DecidableEq, Repr

/-- A running handler: the interrupted thread, its fault and the handler object (R335). -/
structure Handler where
  outer : Thread
  fault : FaultInfo
  kernel : Kernel
  deriving DecidableEq, Repr

/-- One memory byte with its poison mark (R379). -/
structure MByte where
  val : Byte
  poison : Bool
  deriving DecidableEq, Repr

/-- Bytes written at a location key: the unit of stores, engine writes and COMMITs. `va` is the address the program
used (R186); `whole` says that the instruction or operation writes every byte of the 32-byte sector (R379). -/
structure Write where
  loc : Nat
  bytes : List MByte
  va : BitVec 64
  whole : Bool := false
  deriving DecidableEq, Repr

/-- A line of the store buffer or the read set: space and rank, and 128-byte line number (R303). -/
structure LineId where
  space : Nat
  line : Nat
  deriving DecidableEq, Repr

/-- A buffered store of one lane (R306). -/
structure BufStore where
  lane : Nat
  line : LineId
  w : Write
  deriving DecidableEq, Repr

/-- A read-set line, its lanes, and the location keys its 128 bytes have (R303, R309). -/
structure ReadLine where
  line : LineId
  mask : Mask
  loc : Nat
  deriving DecidableEq, Repr

/-- The region state of a group (R303). -/
structure Region where
  depth : Nat := 0
  mode : Bool := false
  rm : Mask := 0
  am : Mask := 0
  entry : Mask := 0
  anyc : Bool := false
  code : Tab Half := []
  /-- the checkpoint: registers, `stk.ptr`, and the stack depth at the try entry -/
  ckRegs : Regs := {}
  ckPtr : BitVec 64 := 0
  ckBody : Nat := 0
  ckDepth : Nat := 0
  buffer : List BufStore := []
  reads : List ReadLine := []
  deriving DecidableEq, Repr

/-- An atomic under way (R205): the instruction, compare-and-swap, reduction, the releases that its writes stand under, the
lanes still to perform with their addresses and locations, and the old values of those performed (none for poison). -/
structure AtomRun where
  f : AtomOp
  cas : Bool
  red : Bool
  act : Mask
  rels : List Nat
  todo : List (Nat × Nat × Nat)
  old : List (Nat × Option Nat)
  /-- its sector requests (R162) -/
  sectors : Nat := 0
  deriving DecidableEq, Repr

/-- What a group that is not ready waits for (R134). -/
inductive Wait
  | none
  /-- BARW or BARS: barrier key, token, scope rank and mask of the acquire (R196) -/
  | barrier (bar : Nat) (token : Word) (scope : Nat) (mask : BitVec 4)
  | waitc (f : WaitcOp)
  /-- YIELDC: the channel, and the byte offset of the YIELDC, which a fault reports (R240, R337) -/
  | yieldc (ch : Nat) (pc : Nat)
  | chcfg (ch : Nat)
  | yield
  /-- QPOP after its claim: queue, first element, active lanes, destination, and the instruction's bytes (R261) -/
  | qpop (q : Nat) (first : Nat) (lanes : Mask) (d : Idx) (n : Nat)
  /-- an access at or above the watermark of a busy channel (R212): (channel, byte offsets) -/
  | watermark (chs : List (Nat × Nat))
  /-- a full channel, array queue or counter (R201, R210, R264) -/
  | hold
  /-- an atomic with lanes still to perform (R205) -/
  | lanes (a : AtomRun)
  /-- END waiting for engine operations (R237) -/
  | endJoin
  /-- page service (R331) -/
  | page (f : FaultInfo)
  /-- a debugger holds the group (R350) -/
  | halt
  deriving DecidableEq, Repr

/-- The checkpoint at the START of an idempotent region (R342): the word, the thread, `stk.ptr`, the region state, the PERF counters, the
number of the next engine operation, and the lanes of the region state whose reads stores or poison have met since (R309, R314). -/
structure Idem where
  start : Nat
  th : Thread
  ptr : BitVec 64
  region : Region
  perf : Tab (BitVec 64)
  nextOp : Nat
  conflict : Mask := 0
  ue : Mask := 0
  deriving DecidableEq, Repr

/-- What a commit point records of a group (R324, R384): its virtual state and its region state, and the lanes of that region state
whose reads stores or poison have met up to now (R309, R314). -/
structure Commit where
  th : Thread
  hnd : Option Handler
  stkptr : BitVec 64
  faultc : Byte
  faultva : BitVec 64
  abortc : Half
  np : Bool
  npClock : BitVec 64
  region : Region
  perf : Tab (BitVec 64)
  idem : List Idem := []
  conflict : Mask := 0
  ue : Mask := 0
  deriving DecidableEq, Repr

/-- A group (R23, R120). -/
structure Group where
  th : Thread := {}
  hnd : Option Handler := Option.none
  block : Nat := 0
  core : Nat := 0
  half : Nat := 0
  /-- group index in the block, or 32 plus the pool slot -/
  grpid : Nat := 0
  l16 : Bool := false
  retired : Bool := false
  stkptr : BitVec 64 := 0
  stklim : BitVec 64 := 0
  faultc : Byte := 0
  faultva : BitVec 64 := 0
  abortc : Half := 0
  np : Bool := false
  npClock : BitVec 64 := 0
  /-- NOPREEMPT_OVERRUN is due (R148) -/
  overrun : Bool := false
  /-- lanes of CONFLICT aborts, of UE aborts, and a PREEMPT abort, to take at the next boundary (R308, R309) -/
  conflict : Mask := 0
  ue : Mask := 0
  preempt : Bool := false
  region : Region := {}
  /-- lanes with poisoned register storage, and every lane for a scalar register: those of them that are live are killed before the next
  instruction (R338) -/
  upset : Mask := 0
  /-- the PERF counters (R349), and at 16 + i what timing may have added to counter i since it was last read (DESIGN CHOICE, log entry
  14) -/
  perf : Tab (BitVec 64) := []
  /-- the passes of the instruction under way, to be counted when it completes (R101), and whether it issues in one window with the other
  group of its legacy pair (R107) -/
  passes : Nat := 0
  paired : Bool := false
  /-- an abort has widened `exec`: the rejoin charge is due before the next instruction (R102, R322) -/
  charge : Bool := false
  wait : Wait := .none
  /-- gated stores, oldest first (R324), and how many of them have passed a commit point -/
  gated : List Write := []
  passed : Nat := 0
  /-- the state at the last commit point, whether the group stands at one, the instructions since, and whether a mismatch has
  put the group back there (R323, R324, R384) -/
  point : Option Commit := Option.none
  atPoint : Bool := true
  since : Nat := 0
  keep : Bool := false
  /-- the stores that the group has made (R178) -/
  mine : List Nat := []
  /-- releases that happen before the group's next access (R170) -/
  known : List Nat := []
  /-- places of the accumulator additions that the group has joined (R224) -/
  adds : List Nat := []
  /-- the idempotent regions entered and not left, at most one for each call frame, the innermost first (R342) -/
  idem : List Idem := []
  deriving DecidableEq, Repr

/-! ### Cores and memory (R158 to R178) -/

/-- A view entry: a value, the published store it came from (0 for the initial value) and the unpublished store it is
(0 for none) (R166). -/
structure ViewEnt where
  val : Byte
  poison : Bool
  seq : Nat
  sid : Nat
  deriving DecidableEq, Repr

/-- A store of a core: its number, group, the scope rank at which it is published, for accesses and for engines (0:
unpublished), and its place in the coherence order (0: none) (R167, R168). -/
structure StoreRec where
  sid : Nat
  grp : Nat
  w : Write
  plain : Nat
  eng : Nat
  seq : Nat
  /-- it performed at its home (R176) -/
  homed : Bool := false
  deriving DecidableEq, Repr

/-- A published store: its place, author, bytes, the bytes it replaced in coherence order, the widest scope rank at
which it is published, the releases that published it (R167, R168), and those that count as such for R169 alone (R224). -/
structure HistEnt where
  seq : Nat
  sid : Nat
  core : Nat
  loc : Nat
  bytes : List MByte
  old : List MByte
  plain : Nat
  eng : Nat
  rels : List Nat
  adders : List Nat := []
  deriving DecidableEq, Repr

/-- A release: core, scope rank, mask, the stores still to publish, the releases that happen before it, whether it
has completed (R168), and whether it stands in the order S (R172). -/
structure RelRec where
  core : Nat
  scope : Nat
  mask : BitVec 4
  todo : List Nat
  known : List Nat
  done : Bool
  sc : Bool := false
  deriving DecidableEq, Repr

/-- A cached translation: context, first address, size, and leaf entry (R158). -/
structure TlbEnt where
  ctx : Nat
  base : Nat
  size : Nat
  pte : BitVec 64
  deriving DecidableEq, Repr

/-- A core (R17, R18). -/
structure Core where
  lmap : BitVec 64 := 0
  /-- the last value of the cycle counter that was read (R344) -/
  clock : BitVec 64 := 0
  view : Tab ViewEnt := []
  stores : List StoreRec := []
  /-- for each location the least place in coherence order that a read may return (R166, R169) -/
  floor : Tab Nat := []
  /-- releases not yet completed, oldest first -/
  rels : List Nat := []
  /-- SPAWN pool: slot to group (R142) -/
  pool : Tab Nat := []
  /-- bytes of lines that a scrub has found uncorrectable in this core's L1 or its die's L2, and that no view entry stands for
  (R165, R380) -/
  badCopy : AddrSet := []
  /-- ways of scratchpad (R163) -/
  wsp : Nat := 0
  /-- matrix commands waiting in the array queue, oldest first (R264) -/
  arrayQ : List Nat := []
  /-- groups in page service: the core-wide stall (R332) -/
  stall : List Nat := []
  /-- drained until the cluster's test has ended (R28, R385, R387) -/
  drain : Bool := false
  /-- drained until a lane has been fused (R28, R386) -/
  fuseDue : Bool := false
  quarantine : Bool := false
  /-- consecutive passing tests while quarantined (R385) -/
  passes : Nat := 0
  deriving DecidableEq, Repr

/-- A cluster (R17, R244, R264, R387). -/
structure Cluster where
  /-- core position whose array command started last -/
  last : Nat := 3
  inService : Bool := true
  underTest : Bool := false
  testDue : Bool := false
  /-- clock in units of 100 MHz (R396) -/
  clock : Nat := 33
  /-- a pre-emption has been requested, and it is a swap-out for a page fault (R332, R340) -/
  preempt : Bool := false
  swap : Bool := false
  /-- no group of the unit holds NP any more and the request has been taken (R340), and the unit is to be discarded (R342) -/
  taken : Bool := false
  discard : Bool := false
  /-- the save pool is too small for its unit, which keeps running (R341) -/
  poolWait : Bool := false
  deriving DecidableEq, Repr

/-! ### Barriers, engines (R191, R210, R244, R257) -/

/-- A barrier: its members, arrival bits, expected count, phase, the releases of the phase (R192), those before its completed
phases, and those before the retirements that count as arrivals in this one (R170, R195). -/
structure Barrier where
  members : List Nat := []
  arrived : List Nat := []
  expected : Nat := 0
  phase : Word := 0
  rels : List Nat := []
  known : List Nat := []
  left : List Nat := []
  deriving DecidableEq, Repr

/-- What an engine operation does, with the operands it took at issue. -/
inductive OpKind
  | cpy (dsp ssp : CSpace) (dst src : BitVec 64) (n : Nat)
  /-- 0 CPYX, 1 CPYA, 2 CPYD; the snapshot's words (R220) -/
  | copyRec (kind : Nat) (clr : Bool) (words : List DWord)
  | fsend (inScr : Bool) (fab src : BitVec 64) (n : Nat)
  | spred (inScr : Bool) (fab src : BitVec 64) (n : Nat)
  | ncopy (dsp : CSpace) (dst : BitVec 64) (dom : Nat) (name : Name) (depth len : Nat)
  /-- tile, shape records of A and B, the format block's eight words (R250, R251) -/
  | mma (t : Nat) (a b : BitVec 128) (fmt : List DWord) (acc : Bool)
  | tzero (t : Nat)
  | tload (t : Nat) (a : BitVec 128)
  /-- tile, queue, first element, bytes, and the instruction -/
  | tdrain (q first bytes : Nat) (f : TdrainOp)
  | qstore (q first n : Nat) (inScr : Bool) (dst : BitVec 64)
  | qsend (q first n : Nat) (fab : BitVec 64)
  deriving DecidableEq, Repr

/-- Progress of an engine operation. -/
inductive OpState
  | queued | started | finished
  deriving DecidableEq, Repr

/-- An element that a copy has still to move: its source (an address, or the number of an element), or the FILL pattern
of a PAD step, the CONVERT steps that it has behind it, and its destination address (R216, R219). A silent one is read
alone: an element of larger linear index writes its bytes (R214). -/
structure Elem where
  src : Nat
  fill : Option Nat
  stage : Nat
  dst : Nat
  silent : Bool := false
  deriving DecidableEq, Repr

/-- An engine operation (R177, R201). `todo` are the elements still to move, of a drain those still to push; `wrote` the writes not yet
joined. -/
structure EngOp where
  grp : Nat
  block : Nat
  core : Nat
  chan : Option Nat
  kind : OpKind
  st : OpState := .queued
  /-- counted by the tile counter of WAITC, not the copy counter -/
  tile : Bool := false
  todo : List Elem := []
  wrote : List Write := []
  /-- what the operation writes in all: ranges of addresses of its destination's space, first and one past the last, in falling
  order (R379) -/
  cover : List (Nat × Nat) := []
  fault : Option (Nat × BitVec 64) := none
  /-- the operation waits for page service at this address -/
  paging : Option (BitVec 64) := none
  /-- joined by its own group, so that WAITC passes it -/
  joined : Bool := false
  wexp : Int := 0
  /-- stores the operation must see, and releases that happen before its issue (R178) -/
  must : List Nat := []
  known : List Nat := []
  /-- places of the additions made so far (R224), and the release that stands for fabric writes (R230) -/
  adds : List Nat := []
  rel : Option Nat := none
  /-- stores that joins of its writes have made (R214) -/
  sids : List Nat := []
  /-- accumulators that CPYD has read, by location (R225) -/
  cache : Tab (BitVec 128 × Bool) := []
  /-- what an array command has read of its operand bytes before its completion, each time oldest first (R265) -/
  got : Tab (List MByte) := []
  /-- packets sent and not acknowledged: port, VL, sequence number, and the source address of their bytes (R229, R232) -/
  sent : List (Nat × Nat × BitVec 32 × BitVec 64) := []
  /-- source addresses of SPRED pairs that the destination has not acknowledged (R229) -/
  pairs : List (BitVec 64) := []
  deriving DecidableEq, Repr

/-- A copy channel (R210). `filled` has for each granule of the range the bytes written since the last CHCFG (R211). -/
structure Channel where
  space : CSpace := .glob
  base : Nat := 0
  len : Nat := 0
  wexp : Int := 0
  clipf : Bool := false
  nanf : Bool := false
  filled : Tab (BitVec 128) := []
  queue : List Nat := []
  /-- stores that joins of the channel's writes have made since the last CHCFG (R213) -/
  sids : List Nat := []
  deriving DecidableEq, Repr

/-- A tile accumulator (R244): element (i, j) at key 128 * i + j. -/
structure Tile where
  vals : Tab Word := []
  nan : BitVec 128 := 0
  poison : BitVec 128 := 0
  flag : Bool := false
  deriving DecidableEq, Repr

/-- An element of a result queue (R257). -/
structure QElem where
  width : Nat
  val : Word
  poison : Bool
  written : Bool
  deriving DecidableEq, Repr

/-- A result queue and its totals; elements are numbered from block start (R257). -/
structure RQueue where
  elems : Tab QElem := []
  ie : Nat := 0
  ib : Nat := 0
  ce : Nat := 0
  cb : Nat := 0
  deriving DecidableEq, Repr

/-- Where a block stands. -/
inductive BlockState
  | resident | saved | retiring | retired
  deriving DecidableEq, Repr

/-- A block (R23, R152). -/
structure Block where
  launch : Nat := 0
  lin : Nat := 0
  rank : Nat := 0
  /-- launch cluster -/
  clus : Nat := 0
  core : Nat := 0
  lidCore : Nat := 0
  /-- first byte of its allocation in the core's scratchpad ways (R163) -/
  scr : Nat := 0
  st : BlockState := .resident
  groups : List Nat := []
  /-- the release of its retirement, once it has begun (R132) -/
  rel : Option Nat := none
  chans : Tab Channel := []
  queues : Tab RQueue := []
  tiles : Tab Tile := []
  deriving DecidableEq, Repr

/-! ### Launches, contexts, queues (R352 to R361) -/

/-- Where a launch stands (R357). -/
inductive LaunchState
  | waiting | translating | placing | running | signalling | finished
  deriving DecidableEq, Repr

/-- A key-store entry (R390). -/
structure KeyEnt where
  ml : Bool
  key : List Byte
  ident : List Byte
  kernel : Bool
  firmware : Bool
  admin : Bool
  fused : Bool
  deriving DecidableEq, Repr

/-- A launch: its context, queue, record and kernel (R355). `placed` counts launch clusters placed. -/
structure Launch where
  ctx : Nat := 0
  queue : Nat := 0
  /-- number of the record in its queue, and its virtual address -/
  index : Nat := 0
  addr : BitVec 64 := 0
  record : List DWord := []
  st : LaunchState := .waiting
  kernel : Kernel := {}
  consts : List Byte := []
  /-- offsets of the poisoned bytes of its constant bank (R185, R379) -/
  badConsts : List Nat := []
  /-- digest of the object's signed bytes, which keys its translations (R328) -/
  digest : List Byte := []
  /-- the key store and the kernel counter when the launch's object was checked: its handler object is held to them while the grid
  runs (R335, R391; DEDUCED, log entry 82) -/
  checkedBy : Option (Tab KeyEnt × Nat) := none
  /-- the physical clusters of its logical numbers, and for a cluster whose blocks have migrated the physical positions of its
  logical cores (R24) -/
  clusters : List Nat := []
  corePos : Tab (List Nat) := []
  /-- step 4 has begun (R357) -/
  began : Bool := false
  placed : Nat := 0
  /-- the completion release, once it has begun (R132, R359) -/
  rels : Option (List Nat) := none
  status : Nat := 0
  aborted : Bool := false
  deriving DecidableEq, Repr

/-- A pin of a context (R272). -/
structure Pin where
  name : Name
  dom : Nat
  count : Nat
  deriving DecidableEq, Repr

/-- A bound view window (R292). -/
structure Bound where
  view : Nat
  dom : Nat
  name : Name
  depth : Nat
  len : Nat
  deriving DecidableEq, Repr

/-- A context (R352). `desc` is its descriptor; `windows` the bound views by view number. -/
structure Ctx where
  desc : List DWord := []
  redundant : Bool := false
  debugger : Bool := false
  pins : List Pin := []
  bound : List Bound := []
  /-- clusters allotted to the context (R364) -/
  clusters : List Nat := []
  deriving DecidableEq, Repr

/-- A user queue (R353). -/
structure UQueue where
  enabled : Bool := false
  base : BitVec 64 := 0
  log2 : Nat := 1
  prio : Nat := 0
  rd : BitVec 32 := 0
  wr : BitVec 32 := 0
  pend : Bool := false
  err : Bool := false
  slot : Option Nat := none
  tpend : Nat := 0
  mapTick : Nat := 0
  deriving DecidableEq, Repr

/-- A translation in the cache or in progress (R27, R328). -/
structure Trans where
  digest : List Byte
  cls : Nat
  keep : Bool
  version : Nat
  dom : Nat
  done : Bool
  /-- the peer question is open (R329) -/
  asking : Bool
  /-- re-optimised copies installed (R330) -/
  generation : Nat
  /-- security version of the object (R391) -/
  secver : Nat := 0
  /-- its root slot, and its lines in the domain, root first, each with one pin (R328) -/
  slot : Option Nat := none
  lines : List Name := []
  /-- the last launch that has used it, and virtual instructions issued since it was made (R328, R330) -/
  used : Nat := 0
  issued : Nat := 0
  deriving DecidableEq, Repr

/-- What a save area holds of a group beside its header (R341): stack, WAITC counters, PERF counters, CODE, and register images, each
an entry in the layout of R326 and its value's bytes; and while a handler runs its fault and object, its thread, and the images of its
registers. -/
structure GroupRec where
  stack : List Entry
  copies : Nat
  tiles : Nat
  perf : Tab (BitVec 64)
  code : Tab Half
  hnd : Option Handler
  images : List (DWord × List Byte)
  handlerTh : Option Thread := none
  handlerImages : List (DWord × List Byte) := []
  deriving DecidableEq, Repr

/-- What a save area holds of a block (R341): of a discarded one its barriers alone. -/
structure BlockRec where
  lin : Nat
  rank : Nat
  discarded : Bool
  scratch : List (Nat × MByte)
  chans : Tab Channel
  queued : List (Nat × EngOp)
  queues : Tab RQueue
  barriers : List (Nat × Barrier)
  pool : List (Nat × Nat)
  deriving DecidableEq, Repr

/-- What a save area holds of a hardware cluster beside its B store (R341): its launch clusters' barriers, its tiles by block, and the
commands not started. -/
structure ClusterRec where
  barriers : List (Nat × Barrier)
  tiles : List (Nat × Tab Tile)
  commands : List Nat
  deriving DecidableEq, Repr

/-- A saved unit that moves together (R332, R341): its blocks, whether it was discarded (R342), and its save area: the B stores of
its clusters by cluster and offset, each group's header and record, the records of blocks and clusters, and the barriers of a COSCHED
grid. -/
structure MoveUnit where
  blocks : List Nat
  discarded : Bool
  bstore : List (Nat × List (Nat × MByte))
  headers : Tab (List DWord) := []
  groupRecs : Tab GroupRec := []
  blockRecs : Tab BlockRec := []
  clusterRecs : Tab ClusterRec := []
  grid : List (Nat × Barrier) := []
  deriving DecidableEq, Repr

/-! ### Named domains (R271 to R282) -/

/-- A directory entry and its line (R273, R278). -/
structure Line where
  name : Name
  bytes : List MByte
  count : Nat
  immortal : Bool
  deriving DecidableEq, Repr

/-- A named domain (R271). `reclaim` are the decrements of freed nodes still to make (R279). -/
structure Domain where
  key : List Byte := []
  verify : Bool := true
  frames : List Nat := []
  roots : List Nat := []
  lines : List Line := []
  reclaim : List Name := []
  /-- TRDOM_SET: threshold, re-optimisation threshold, peer timeout, peers, translator version (R328 to R330) -/
  freeLines : Nat := 0
  reopt : Nat := 4294967296
  peerTimeout : Nat := 200
  peers : List Nat := []
  version : Nat := 0
  deriving DecidableEq, Repr

/-! ### Host interface, fabric, reliability (R366 to R397) -/

/-- A mailbox (R368). `waiting` is the command in hand that cannot be carried out yet: CLUSTER_TEST with the outcome of its test, or
TLB_INVAL or SLICE_ABORT. -/
structure Mailbox where
  doorbell : Bool := false
  irqctl : BitVec 64 := 0
  rsp : List DWord := []
  waiting : Option (Cmd × Option TestEnd) := none
  deriving DecidableEq, Repr

/-- An MSI-X vector: its address and data, masked, pending, and the messages sent (R365, R366). -/
structure Msix where
  addr : BitVec 64 := 0
  data : Word := 0
  masked : Bool := true
  pending : Bool := false
  sent : Nat := 0
  deriving DecidableEq, Repr

/-- One direction pair of a virtual lane of a port (R232, R371). -/
structure Vl where
  /-- next sequence number to accept -/
  rx : BitVec 32 := 0
  /-- next number to send, and packets sent and not acknowledged -/
  tx : BitVec 32 := 0
  unacked : List Packet := []
  /-- packet being retried, its consecutive negative acknowledgements, and those counted towards LIMIT -/
  nakSeq : BitVec 32 := 0
  naks : Nat := 0
  counted : Nat := 0
  backoff : Bool := false
  /-- answers the port has sent: (negative, sequence number, reason) -/
  answers : List (Bool × BitVec 32 × Nat) := []
  deriving DecidableEq, Repr

/-- A Faine Link port (R232, R371). -/
structure Port where
  /-- TIMEOUT, LIMIT, EXP, BASE: each the least value that its field allows (DESIGN CHOICE, log entry 7) -/
  flbo : BitVec 64 := 0x0000000100100001
  lanes : Nat := 8
  vls : Tab Vl := []
  /-- packages declared unreachable through the port (R232, R372) -/
  lost : List Nat := []
  deriving DecidableEq, Repr

/-- A merge-table entry of a switch egress port (R229). -/
structure MergeEnt where
  dst : Nat
  win : Nat
  index : Nat
  wexp : BitVec 16
  sum : BitVec 128
  contribs : List (Nat × Nat × Nat)
  job : Nat := 0
  /-- on the overflow path, which no switch merges -/
  overflow : Bool := false
  deriving DecidableEq, Repr

/-- A slice-table entry (R369, R373). -/
structure Slice where
  num : BitVec 32
  len : Nat
  gto : Nat
  deriving DecidableEq, Repr

/-- The save area that a gang context's slice began from (R376): its tables, and its scratchpads and B stores by location
key. -/
structure SaveArea where
  groups : Tab Group
  blocks : Tab Block
  barriers : Tab Barrier
  ops : Tab EngOp
  units : Tab MoveUnit
  launches : Tab Launch
  scratch : List (Nat × MByte)
  deriving DecidableEq, Repr

/-- A gang as this member sees it (R373 to R376). -/
structure Gang where
  slices : List Slice := []
  cur : Option Slice := none
  /-- a slice has ended: the next one of the table is taken up when the outgoing contexts are pre-empted (R374) -/
  due : Bool := false
  /-- the slice has begun on this member (R374) -/
  begun : Bool := false
  sentReady : Bool := false
  sentRunning : Bool := false
  ready : List (Nat × BitVec 32) := []
  running : List (Nat × BitVec 32) := []
  /-- a grid-barrier phase has completed in this slice (R375) -/
  barrierDone : Bool := false
  /-- the save area written at the end of the previous slice, and whether an aborted slice is being stopped, after which the gang's
  contexts go back to it (R376) -/
  saved : Option SaveArea := none
  aborting : Bool := false
  deriving DecidableEq, Repr

/-- A step-journal record (R392): step, boot count, outcome (0 STARTED, 1 DONE, 2 FAILED), alternate. -/
structure Journal where
  step : Nat
  boot : Nat
  outcome : Nat
  alt : Bool
  deriving DecidableEq, Repr

/-- The state of one package. -/
structure State where
  /-- the group whose instruction `exec` performs -/
  cur : Nat := 0
  /-- events that have arrived and not been taken, oldest first (DESIGN CHOICE, log entry 6) -/
  inputs : List Instr := []
  /-- the number of free values taken so far (DESIGN CHOICE, log entry 1): the model's own -/
  free : Nat := 0
  groups : Tab Group := []
  blocks : Tab Block := []
  launches : Tab Launch := []
  contexts : Tab Ctx := []
  /-- queue q of context c at key 512 * c + q -/
  queues : Tab UQueue := []
  cores : Tab Core := []
  clusters : Tab Cluster := []
  barriers : Tab Barrier := []
  ops : Tab EngOp := []
  units : Tab MoveUnit := []
  trans : Tab Trans := []
  domains : Tab Domain := []
  /-- the newest byte of each location in coherence order, and which are poisoned (R167, R379) -/
  mem : Cells := []
  poison : AddrSet := []
  hist : List HistEnt := []
  rels : Tab RelRec := []
  nextSeq : Nat := 1
  nextSid : Nat := 1
  tlb : List TlbEnt := []
  /-- frame-group entries (R160) -/
  frames : Tab Byte := []
  /-- the scheduling tick (R361) -/
  tick : Nat := 0
  mailboxes : Tab Mailbox := []
  /-- vector v of function f at key 128 * f + v; function 0 is the physical function -/
  msix : Tab Msix := []
  /-- EVENT_ROUTE: event to physical-function vector (R369) -/
  routes : Tab Nat := []
  sriov : Bool := false
  /-- PCIe functions whose AtomicOp requests are enabled (R206, R365; DESIGN CHOICE, log entry 7) -/
  atomicOps : List Nat := []
  keys : Tab KeyEnt := []
  kernelCounter : Nat := 0
  firmwareCounter : Nat := 0
  nonce : BitVec 64 := 0
  journal : List Journal := []
  /-- lanes of each core whose fuses were blown in service (R386) -/
  fuses : Tab (BitVec 64) := []
  bootCount : Nat := 0
  booted : Bool := false
  stopReported : Bool := false
  /-- the running firmware slot, B if set, and the security versions of the images in A and B (R391, R395) -/
  fwSlot : Bool := false
  fwVersions : Nat × Nat := (0, 0)
  /-- Mallet cores that have failed, 0 to 15, four on each compute die (R22) -/
  mallets : List Nat := []
  /-- PBUDGET: DRAW, the mean power, and LIMIT in watts (R397; DESIGN CHOICE, log entry 7) -/
  pbudget : BitVec 64 := 1950
  /-- HBM4 and SRAM error counters of R381 by BAR2 offset -/
  counters : Tab (BitVec 64) := []
  /-- corrected errors of each 2 MiB frame in the current 24 hours (R382) -/
  frameErrors : Tab Nat := []
  /-- management events reported, newest first: what happened, and the numbers of what it concerns, such as the die of R22 -/
  reports : List (String × List Nat) := []
  /-- system package number: bits 6:0 are the package in its load-store domain (R372) -/
  pkg : Nat := 0
  ports : Tab Port := []
  /-- system package numbers declared unreachable (R232) -/
  unreachable : List Nat := []
  merge : List MergeEnt := []
  mergeOut : List MergeEnt := []
  gangs : Tab Gang := []
  hotDies : List Nat := []
  deriving DecidableEq, Repr

/-- A fused entry of the key store (R390). -/
def fusedKey (ml : Bool) (k : List Byte) : KeyEnt :=
  { ml := ml, key := k, ident := (Blake3.hash k).take 8, kernel := false, firmware := true, admin := true, fused := true }

/-- The machine right after reset, before its first boot step (DESIGN CHOICE, log entry 7): every register and table at the value the
spec gives, or the value that log entry 7 names. The key store holds the two entries that are fixed in fuses (R390). -/
def State.reset : State := { keys := [(0, fusedKey false Config.fusedKeys.1), (1, fusedKey true Config.fusedKeys.2)] }

end Sys2Proof.Machine
end

