-- ==== Sys2Proof/Machine/Cfg.lean ====
section
/-! DEFINITION. The code section as bodies and base words (R45, R126), and the reconvergence points of R122. -/

namespace Sys2Proof.Machine

/-- Which words of a code section are base words (R45): a word is one unless the base word before it had X = 1. -/
def baseFlags : List DWord → Bool → List Bool
  | [], _ => []
  | _ :: t, true => false :: baseFlags t false
  | w :: t, false => true :: baseFlags t (w.getLsbD 50)

/-- Whether word `n` of a code section is a base word. -/
def isBase (code : List DWord) (n : Nat) : Bool := ((baseFlags code false)[n]?).getD false

/-- The instruction at word `n`. -/
def instrAt (code : List DWord) (n : Nat) : Except DecodeError Instr :=
  match code[n]? with
  | none => .error .reservedOpcode
  | some w => decode w code[n + 1]?

/-- Length in words of the instruction at word `n`, by its X bit. -/
def lenAt (code : List DWord) (n : Nat) : Nat := if ((code[n]?).getD 0).getLsbD 50 then 2 else 1

/-- The starts of function bodies: the word offsets of the KIND 2 records (R126). -/
def Kernel.starts (k : Kernel) : List Nat := (k.entries.filter (·.kind == 2)).map (·.woff)

/-- The word at which the body that holds word `n` starts (R126): 0 for the kernel body. -/
def Kernel.bodyOf (k : Kernel) (n : Nat) : Nat := k.starts.foldl (fun b w => if w ≤ n then max b w else b) 0

/-- The word one past the body that starts at word `b` (R126). -/
def Kernel.bodyEnd (k : Kernel) (b : Nat) : Nat :=
  k.starts.foldl (fun e w => if b < w then min e w else e) k.code.length

/-- Whether a body start names a function and not the kernel body. -/
def Kernel.isFunction (k : Kernel) (b : Nat) : Bool := k.starts.contains b

/-- The ENTRY index of the function whose body starts at word `b`, or 0xFFFF_FFFF for the kernel body (R334). -/
def Kernel.funcIndex (k : Kernel) (b : Nat) : Nat :=
  if k.isFunction b then (k.entries.findIdx fun e => e.kind == 2 && e.woff == b) else 0xFFFFFFFF

/-- Whether word `n` is a base word of the body that starts at word `b`. -/
def Kernel.inBody (k : Kernel) (b n : Nat) : Bool :=
  decide (b ≤ n) && decide (n < k.bodyEnd b) && isBase k.code n

/-- The word that an IMM32 target names from word `n` (R34). -/
def targetWord (n : Nat) (imm : BitVec 32) : Int := (n : Int) + 2 + imm.toInt

/-- The exit node of the flow graph (R122). -/
def exitNode : Nat := 0x100000000

/-- The words to which word `n` of a body leads (R122, R240, R304). -/
def Kernel.succs (k : Kernel) (b n : Nat) : List Nat :=
  let nx := n + lenAt k.code n
  let next := if nx < k.bodyEnd b then nx else exitNode
  let dest (imm : BitVec 32) : Nat := (targetWord n imm).toNat
  match instrAt k.code n with
  | .ok (.bra f) => if f.guard.uniform then [dest f.target] else [next, dest f.target]
  | .ok (.brx f) => if f.guard.uniform then [dest f.join] else [next, dest f.join]
  | .ok (.yieldc f) => [dest f.target]
  | .ok (.tryOp f) => [next, dest f.target]
  | .ok (.endOp f) => if f.guard.uniform then [exitNode] else [next, exitNode]
  | .ok (.ret f) => if f.guard.uniform then [exitNode] else [next, exitNode]
  | _ => [next]

/-- Nodes reached from a frontier in a graph without passing a wall. `fuel` bounds the nodes visited. -/
def reach (succ : Nat → List Nat) (wall : Nat → Bool) : Nat → List Nat → List Nat → List Nat
  | 0, _, seen => seen
  | _, [], seen => seen
  | fuel + 1, n :: t, seen =>
    if seen.contains n then reach succ wall fuel t seen
    else if n == exitNode || wall n then reach succ wall fuel t (n :: seen)
    else reach succ wall fuel (succ n ++ t) (n :: seen)

/-- Enough fuel for `reach` over a body of `n` words: each word has at most two successors. -/
def reachFuel (n : Nat) : Nat := 4 * n + 8

/-- The nodes reached from the successors of word `n` without passing a word that `wall` holds. -/
def Kernel.reachFrom (k : Kernel) (b : Nat) (from_ : List Nat) (wall : Nat → Bool) : List Nat :=
  reach (k.succs b) wall (reachFuel (k.bodyEnd b - b)) from_ []

/-- J of the branch or TRY at word `n` (R122): its immediate post-dominator, or none. -/
def Kernel.joinOf (k : Kernel) (b n : Nat) : Option Nat :=
  let start := k.succs b n
  let all := k.reachFrom b start fun _ => false
  if !all.contains exitNode then none
  else
    let doms := all.filter fun d => d != exitNode && d != n && !(k.reachFrom b start fun w => w == d).contains exitNode
    doms.find? fun d => (k.reachFrom b start fun w => doms.contains w).contains d

end Sys2Proof.Machine
end

