-- ==== Sys2Proof/Machine/Ed25519.lean ====
section
/-! DEFINITION. SHA-512, and the verification of Ed25519 signatures in the pure form of RFC 8032, which R49 names. -/

namespace Sys2Proof.Machine.Ed25519

/-! ### SHA-512 -/

/-- The primes below a bound. -/
def primes (n : Nat) : List Nat :=
  (List.range n).filter fun p => decide (2 ≤ p) && (List.range p).all fun d => decide (d < 2) || p % d != 0

/-- The greatest natural whose `k`-th power is at most `n`, by its bits from bit `b` down. -/
def root (k n b : Nat) : Nat :=
  (List.range (b + 1)).foldl (fun r i => let c := r + 2 ^ (b - i); if c ^ k ≤ n then c else r) 0

/-- The 64 bits after the point of a prime's `k`-th root. -/
def rootBits (k p : Nat) : DWord := BitVec.ofNat 64 (root k (p * 2 ^ (64 * k)) 72)

/-- The initial hash value: square roots of the first 8 primes. -/
def iv : List DWord := ((primes 20).take 8).map (rootBits 2)

/-- The round constants: cube roots of the first 80 primes. -/
def consts : List DWord := ((primes 410).take 80).map (rootBits 3)

/-- Big-endian value of bytes. -/
def beVal (bs : List Byte) : Nat := bs.foldl (fun n b => 256 * n + b.toNat) 0

/-- The `n` bytes of a value, most significant first. -/
def beBytes (n v : Nat) : List Byte := (leBytes n v).reverse

/-- Word `i` of a list. -/
def at_ (v : List DWord) (i : Nat) : DWord := (v[i]?).getD 0

/-- The message schedule: `n` more words, newest first. -/
def expand : Nat → List DWord → List DWord
  | 0, w => w
  | n + 1, w =>
    let a := at_ w 14
    let b := at_ w 1
    let s0 := a.rotateRight 1 ^^^ a.rotateRight 8 ^^^ (a >>> 7)
    let s1 := b.rotateRight 19 ^^^ b.rotateRight 61 ^^^ (b >>> 6)
    expand n ((at_ w 15 + s0 + at_ w 6 + s1) :: w)

/-- One round of the compression function with a schedule word and a constant. -/
def round (v : List DWord) (w k : DWord) : List DWord :=
  let (a, b, c, d) := (at_ v 0, at_ v 1, at_ v 2, at_ v 3)
  let (e, f, g, h) := (at_ v 4, at_ v 5, at_ v 6, at_ v 7)
  let t1 := h + (e.rotateRight 14 ^^^ e.rotateRight 18 ^^^ e.rotateRight 41) + ((e &&& f) ^^^ (~~~e &&& g)) + k + w
  let t2 := (a.rotateRight 28 ^^^ a.rotateRight 34 ^^^ a.rotateRight 39) + ((a &&& b) ^^^ (a &&& c) ^^^ (b &&& c))
  [t1 + t2, a, b, c, d + t1, e, f, g]

/-- Compress one block of 128 bytes. -/
def compress (ks h : List DWord) (block : List Byte) : List DWord :=
  let ws := (List.range 16).map fun i => BitVec.ofNat 64 (beVal ((block.drop (8 * i)).take 8))
  let sched := (expand 64 ws.reverse).reverse
  let v := (sched.zip ks).foldl (fun v (w, k) => round v w k) h
  (List.range 8).map fun i => at_ h i + at_ v i

/-- Compress `n` blocks of a padded message. -/
def blocks (ks : List DWord) : Nat → List DWord → List Byte → List DWord
  | 0, h, _ => h
  | n + 1, h, bs => blocks ks n (compress ks h (bs.take 128)) (bs.drop 128)

/-- The SHA-512 digest of a message. -/
def sha512 (m : List Byte) : List Byte :=
  let fill := (239 - m.length % 128) % 128
  let padded := m ++ [0x80] ++ List.replicate fill 0 ++ beBytes 16 (8 * m.length)
  (blocks consts (padded.length / 128) iv padded).flatMap fun w => beBytes 8 w.toNat

/-! ### The curve -/

/-- The prime of the field, and the order of the base point. -/
def fieldP : Nat := 2 ^ 255 - 19
def order : Nat := 2 ^ 252 + 27742317777372353535851937790883648493

/-- `a` to the power `e` modulo `m`, by the `n` low bits of `e`. -/
def powMod (m a e : Nat) : Nat → Nat
  | 0 => 1 % m
  | n + 1 => let r := powMod m (a * a % m) (e / 2) n; if e % 2 = 1 then a * r % m else r

def pow (a e : Nat) : Nat := powMod fieldP (a % fieldP) e 256
def inv (a : Nat) : Nat := pow a (fieldP - 2)
def sub (a b : Nat) : Nat := (a + fieldP - b % fieldP) % fieldP

/-- The constant d of the curve: −121665/121666. -/
def curveD : Nat := sub 0 (121665 * inv 121666)

/-- A point in extended coordinates. -/
structure Point where
  x : Nat
  y : Nat
  z : Nat
  t : Nat
  deriving DecidableEq, Repr

def Point.zero : Point := ⟨0, 1, 1, 0⟩

/-- The sum of two points (RFC 8032, 5.1.4); `d` is the curve's constant. -/
def Point.add (d : Nat) (p q : Point) : Point :=
  let a := sub p.y p.x * sub q.y q.x % fieldP
  let b := (p.y + p.x) * (q.y + q.x) % fieldP
  let c := p.t * 2 * d % fieldP * q.t % fieldP
  let e := p.z * 2 * q.z % fieldP
  let (e', f, g, h) := (sub b a, sub e c, e + c, b + a)
  ⟨e' * f % fieldP, g * h % fieldP, f * g % fieldP, e' * h % fieldP⟩

/-- `k` times a point, by the `n` low bits of `k`. -/
def Point.mul (d : Nat) (p : Point) (k : Nat) : Nat → Point
  | 0 => Point.zero
  | n + 1 => let r := Point.mul d (p.add d p) (k / 2) n; if k % 2 = 1 then p.add d r else r

/-- Whether two points are one. -/
def Point.same (p q : Point) : Bool :=
  p.x * q.z % fieldP == q.x * p.z % fieldP && p.y * q.z % fieldP == q.y * p.z % fieldP

/-- The point with a y coordinate and the parity of its x, if there is one (RFC 8032, 5.1.3). -/
def decodeXY (d y sign : Nat) : Option Point :=
  if fieldP ≤ y then none
  else
    let u := sub (y * y) 1
    let v := (d * (y * y % fieldP) + 1) % fieldP
    let v3 := v * v % fieldP * v % fieldP
    let r := u * v3 % fieldP * pow (u * (v3 * v3 % fieldP * v % fieldP)) ((fieldP - 5) / 8) % fieldP
    let w := v * (r * r % fieldP) % fieldP
    let x := if w = u then some r else if w = sub 0 u then some (r * pow 2 ((fieldP - 1) / 4) % fieldP) else none
    match x with
    | none => none
    | some x =>
      if x = 0 ∧ sign = 1 then none
      else
        let x := if x % 2 = sign then x else sub 0 x
        some ⟨x, y, 1, x * y % fieldP⟩

/-- The point that 32 bytes encode. -/
def decodePoint (d : Nat) (bs : List Byte) : Option Point :=
  decodeXY d (leVal bs % 2 ^ 255) (leVal bs / 2 ^ 255 % 2)

/-- Whether an Ed25519 signature verifies (RFC 8032, 5.1.7, by the equation with the cofactor): public key, message, signature. -/
def verify (key msg sig : List Byte) : Bool :=
  let d := curveD
  let s := leVal ((sig.drop 32).take 32)
  match decodePoint d key, decodePoint d (sig.take 32), decodeXY d (4 * inv 5 % fieldP) 0 with
  | some a, some r, some b =>
    let k := leVal (sha512 (sig.take 32 ++ key ++ msg)) % order
    key.length == 32 && sig.length == 64 && decide (s < order)
      && Point.same ((b.mul d s 256).mul d 8 4) (((r.add d (a.mul d k 256))).mul d 8 4)
  | _, _, _ => false

end Sys2Proof.Machine.Ed25519
end

