-- ==== Sys2Proof/Machine/MlDsa.lean ====
section
/-! DEFINITION. SHAKE128 and SHAKE256, and the verification of ML-DSA-65 signatures in the pure form of FIPS 204 with an empty
context string, which R49 names. -/

namespace Sys2Proof.Machine.MlDsa

/-! ### Keccak-f[1600] and SHAKE (FIPS 202) -/

/-- Lane (x, y) of a state of 25 words. -/
def lane (a : Vector DWord 25) (x y : Nat) : DWord := (a[(x % 5) + 5 * (y % 5)]?).getD 0

/-- A state from a function of its lanes. -/
def lanes (f : Nat → Nat → DWord) : Vector DWord 25 := Vector.ofFn fun i => f (i.val % 5) (i.val / 5)

/-- The rotation of each lane in order of index. -/
def offsets : List Nat :=
  [0, 1, 62, 28, 27, 36, 44, 6, 55, 20, 3, 10, 43, 25, 39, 41, 45, 15, 21, 8, 18, 2, 61, 56, 14]

/-- The bit sequence rc of the round constants: the state of its shift register after `t` steps. -/
def rcState : Nat → BitVec 8
  | 0 => 1
  | t + 1 => let r := rcState t; (r <<< 1) ^^^ (if r.getLsbD 7 then 0x71 else 0)

/-- The constant of a round: bit 2^j − 1 is rc(j + 7 * round). -/
def roundConst (ir : Nat) : DWord :=
  (List.range 7).foldl (fun w j => if (rcState (j + 7 * ir)).getLsbD 0 then w ||| (1#64 <<< (2 ^ j - 1)) else w) 0

/-- One round. -/
def round (a : Vector DWord 25) (ir : Nat) : Vector DWord 25 :=
  let par := (List.range 5).map fun x => (List.range 5).foldl (fun w y => w ^^^ lane a x y) 0
  let col (x : Nat) : DWord := (par[x % 5]?).getD 0
  let a := lanes fun x y => lane a x y ^^^ col (x + 4) ^^^ (col (x + 1)).rotateLeft 1
  let b := lanes fun x y =>
    -- the lane that pi brings here, rotated by rho
    let (u, v) := ((x + 3 * y) % 5, x)
    (lane a u v).rotateLeft ((offsets[u + 5 * v]?).getD 0)
  let a := lanes fun x y => lane b x y ^^^ (~~~(lane b (x + 1) y) &&& lane b (x + 2) y)
  lanes fun x y => if x = 0 ∧ y = 0 then lane a 0 0 ^^^ roundConst ir else lane a x y

/-- Keccak-f[1600]. -/
def permute (a : Vector DWord 25) : Vector DWord 25 := (List.range 24).foldl round a

/-- The first `n` bytes of a state. -/
def stateBytes (a : Vector DWord 25) (n : Nat) : List Byte := (a.toList.flatMap fun w => leBytes 8 w.toNat).take n

/-- Absorb `n` blocks of `rate` bytes. -/
def absorb (rate : Nat) : Nat → Vector DWord 25 → List Byte → Vector DWord 25
  | 0, a, _ => a
  | n + 1, a, bs =>
    let w (i : Nat) : DWord := if 8 * i < rate then BitVec.ofNat 64 (leVal ((bs.drop (8 * i)).take 8)) else 0
    absorb rate n (permute (lanes fun x y => lane a x y ^^^ w (x + 5 * y))) (bs.drop rate)

/-- Squeeze `n` blocks of `rate` bytes. -/
def squeeze (rate : Nat) : Nat → Vector DWord 25 → List Byte
  | 0, _ => []
  | n + 1, a => stateBytes a rate ++ squeeze rate n (permute a)

/-- The first `n` blocks of SHAKE output with a rate. -/
def shakeBlocks (rate : Nat) (m : List Byte) (n : Nat) : List Byte :=
  let gap := rate - 1 - m.length % rate
  let pad : List Byte := if gap = 0 then [0x9F] else 0x1F :: (List.replicate (gap - 1) 0 ++ [0x80])
  let bs := m ++ pad
  squeeze rate n (absorb rate (bs.length / rate) (lanes fun _ _ => 0) bs)

/-- `n` bytes of SHAKE256 output. -/
def shake256 (m : List Byte) (n : Nat) : List Byte := (shakeBlocks 136 m (n / 136 + 1)).take n

/-! ### Polynomials modulo q -/

def fieldQ : Nat := 8380417

/-- A polynomial, or its transform, by its 256 coefficients. -/
abbrev Poly := Array Nat

def coef (p : Poly) (i : Nat) : Nat := (p[i]?).getD 0
def poly (f : Nat → Nat) : Poly := Array.ofFn (n := 256) fun i => f i.val
def Poly.op (f : Nat → Nat → Nat) (p r : Poly) : Poly := poly fun i => f (coef p i) (coef r i) % fieldQ

/-- The 8 bits of a number in reverse order. -/
def bitRev (n : Nat) : Nat := (List.range 8).foldl (fun r i => 2 * r + n / 2 ^ i % 2) 0

/-- The powers of 1753, a root of unity of order 512. -/
def zetas : Array Nat := ((List.range 511).foldl (fun (acc : List Nat × Nat) _ =>
  let z := acc.2 * 1753 % fieldQ; (z :: acc.1, z)) ([1], 1)).1.reverse.toArray

/-- The transform (FIPS 204, 2.5): value i is the polynomial at ζ^(2 BitRev8(i) + 1). -/
def transform (zs : Array Nat) (p : Poly) : Poly :=
  poly fun i =>
    let e := 2 * bitRev i + 1
    (List.range 256).foldl (fun n j => n + coef p j * (zs[e * j % 512]?).getD 0) 0 % fieldQ

/-- The inverse transform. -/
def untransform (zs : Array Nat) (p : Poly) : Poly :=
  let es := (List.range 256).map fun i => (coef p i, 2 * bitRev i + 1)
  poly fun j =>
    -- 8347681 is the inverse of 256
    es.foldl (fun n (v, e) => n + v * (zs[(512 - e * j % 512) % 512]?).getD 0) 0 % fieldQ * 8347681 % fieldQ

/-! ### Packing (FIPS 204, 7.1 and 7.2) -/

/-- Field `i` of `w` bits of packed bytes, given as their value. -/
def field (v w i : Nat) : Nat := v / 2 ^ (w * i) % 2 ^ w

/-- A polynomial of 256 fields of `w` bits. -/
def unpack (bs : List Byte) (w : Nat) (f : Nat → Nat) : Poly :=
  let v := leVal bs
  poly fun i => f (field v w i)

/-- Part `i` of `n` bytes. -/
def part (bs : List Byte) (off n i : Nat) : List Byte := (bs.drop (off + n * i)).take n

/-- The hint's positions: of one row, from place `first` to place `last` of the list, strictly rising. -/
def hintRow (y : List Nat) (first last : Nat) : Option (List Nat) :=
  let xs := (y.drop first).take (last - first)
  if (xs.zip (xs.drop 1)).all fun (a, b) => decide (a < b) then some xs else none

/-- Unpack the hint of 55 positions and 6 row ends, or none where it is malformed. -/
def unpackHint (y : List Nat) : Option (List (List Nat)) :=
  let ends := 0 :: y.drop 55
  let ok := (ends.zip (ends.drop 1)).all fun (a, b) => decide (a ≤ b ∧ b ≤ 55)
  if ok && (((y.take 55).drop ((ends.getLast?).getD 0)).all (· == 0)) then
    (ends.zip (ends.drop 1)).mapM fun (a, b) => hintRow y a b
  else none

/-! ### Sampling (FIPS 204, 7.3) -/

/-- The coefficients that a byte stream gives by threes, those below q alone. -/
def rejects : List Byte → List Nat
  | a :: b :: c :: t =>
    let z := a.toNat + 256 * b.toNat + 65536 * (c.toNat % 128)
    if z < fieldQ then z :: rejects t else rejects t
  | _ => []

/-- Sample a polynomial, from `n` blocks of output or the fewest more that suffice. -/
def rejectPoly (seed : List Byte) : Nat → Nat → Poly
  | 0, n => let cs := (rejects (shakeBlocks 168 seed n)).toArray; poly fun i => coef cs i
  | fuel + 1, n =>
    let cs := rejects (shakeBlocks 168 seed n)
    if 256 ≤ cs.length then (let c := cs.toArray; poly fun i => coef c i) else rejectPoly seed fuel (n + 1)

/-- The places of SampleInBall: for each index from 207 on, the next byte that is no greater. -/
def ballStep (i : Nat) (neg : Bool) : List Byte → Poly → Poly × List Byte
  | [], c => (c, [])
  | b :: t, c =>
    if i < b.toNat then ballStep i neg t c
    else
      let c := c.setIfInBounds i (coef c b.toNat)
      (c.setIfInBounds b.toNat (if neg then fieldQ - 1 else 1), t)

/-- The challenge polynomial of 49 coefficients ±1. -/
def sampleInBall (seed : List Byte) : Poly :=
  let out := shakeBlocks 136 seed 8
  let signs := leVal (out.take 8)
  ((List.range 49).foldl (fun (acc : Poly × List Byte) k =>
    ballStep (207 + k) (signs.testBit k) acc.2 acc.1) (poly fun _ => 0, out.drop 8)).1

/-! ### Verification (FIPS 204, algorithms 3 and 8) -/

/-- The high part of a coefficient after its hint (γ2 = 261888, 16 values). -/
def useHint (hint : Bool) (r : Nat) : Nat :=
  let a := 2 * 261888
  let low : Int := if 261888 < r % a then (r % a : Int) - a else (r % a : Int)
  let top := (r : Int) - low
  let (r1, r0) : Nat × Int := if top = fieldQ - 1 then (0, low - 1) else (top.toNat / a, low)
  if !hint then r1 else if 0 < r0 then (r1 + 1) % 16 else (r1 + 15) % 16

/-- Whether an ML-DSA-65 signature verifies, with an empty context string: public key, message, signature. -/
def verify (key msg sig : List Byte) : Bool :=
  let ct := sig.take 48
  match unpackHint ((sig.drop 3248).map (·.toNat)) with
  | none => false
  | some hs =>
    let zs := zetas
    let sums (v r : Poly) : Poly := Poly.op (· + ·) v r
    let z := (List.range 5).map fun i => unpack (part sig 48 640 i) 20 fun v => (2 ^ 19 + fieldQ - v) % fieldQ
    let small := z.all fun p => p.all fun v => decide (v < 2 ^ 19 - 196 ∨ fieldQ - v < 2 ^ 19 - 196)
    let zh := z.map (transform zs)
    let ch := transform zs (sampleInBall ct)
    let rho := key.take 32
    let mu := shake256 (shake256 key 64 ++ [0, 0] ++ msg) 64
    let w := (List.range 6).flatMap fun r =>
      let t := transform zs (unpack (part key 32 320 r) 10 fun v => v * 2 ^ 13 % fieldQ)
      let row := (List.range 5).map fun s =>
        Poly.op (· * ·) (rejectPoly (rho ++ [BitVec.ofNat 8 s, BitVec.ofNat 8 r]) 8 5) ((zh[s]?).getD #[])
      let az := row.foldl sums (poly fun _ => 0)
      let wa := untransform zs (Poly.op (fun a b => a + fieldQ - b) az (Poly.op (· * ·) ch t))
      let h := (hs[r]?).getD []
      let v := (List.range 256).map fun i => useHint (h.contains i) (coef wa i)
      (List.range 128).map fun i => BitVec.ofNat 8 ((v[2 * i]?).getD 0 + 16 * (v[2 * i + 1]?).getD 0)
    key.length == 1952 && sig.length == 3309 && small && shake256 (mu ++ w) 48 == ct

end Sys2Proof.Machine.MlDsa
end

