-- ==== Sys2Proof/Machine/Mem.lean ====
section
/-! DEFINITION. The memory model (R166 to R179): location keys, the home, each core's view, publication by releases,
acquires, and what an engine reads. -/

namespace Sys2Proof.Machine

/-- Take the next free value (DESIGN CHOICE, log entry 1). -/
def State.draw (s : State) : Nat × State := (Config.freeNat s.free, { s with free := s.free + 1 })

/-! ### Location keys -/

/-- The key of the first scratchpad byte of a block. -/
def scratchKey (block : Nat) : Nat := (block + 1) * 0x10000000000000

/-- The key of the first B-store byte of a cluster. -/
def bstoreKey (cluster : Nat) : Nat := 0x100000000000000000000000000000000000000 + cluster * 0x800000

/-- Whether a key lies in a scratchpad or a B store, where scopes wider than `.clu` act as `.clu` (R171). -/
def nearKey (a : Nat) : Bool := decide (0x10000000000000 ≤ a)

/-- The storage mask bit that covers a location (R39, R151): bit 0 scratchpad, 1 global, 2 the engine path, 3 host. -/
def spaceBit (a : Nat) : Nat :=
  if 0x100000000000000000000000000000000000000 ≤ a then 2
  else if 0x10000000000000 ≤ a then 0
  else if a / 0x1000000000000 = 2 then 3
  else 1

/-- Whether a mask covers a location's own space. -/
def covers (mask : BitVec 4) (a : Nat) : Bool := mask.getLsbD (spaceBit a)

/-- The rank of an agent scope (R39, R171). Rank 0 publishes nothing. -/
def scopeRank : Scope → Nat
  | .grp => 0 | .blk => 1 | .clu => 2 | .dev => 3 | .dom => 4 | .sys => 5

/-- The rank at which a release of rank `r` publishes a location: near memory is wholly published at `.clu` (R168). -/
def pubRank (a r : Nat) : Nat := if nearKey a && decide (2 ≤ r) then 5 else r

/-- The agent number of the package's Mallet cores and ports in releases and published stores. -/
def agentCore : Nat := 0x10000

/-- The agent number of another package of the load-store domain; from 0x30000 on agents are the host's. -/
def farCore (pkg : Nat) : Nat := 0x20000 + pkg % 128

/-- The rank of the least scope that holds an agent beside the package's cores (R171). -/
def agentRank (a : Nat) : Nat := if a < 0x20000 then 3 else if a < 0x30000 then 4 else 5

/-- Whether a scope of rank `r` around agent `a` contains agent `b` (R171): the core, its cluster, the package, the
load-store domain, the domain with the host. -/
def inScope (r a b : Nat) : Bool :=
  (decide (3 ≤ r) && (a == b || decide (max (agentRank a) (agentRank b) ≤ r)))
    || (r == 2 && a / 4 == b / 4) || (r == 1 && a == b)

/-- Whether two byte ranges meet. -/
def meets (a n b m : Nat) : Bool := decide (a < b + m) && decide (b < a + n)

/-! ### Bytes and words (R3) -/

/-- Clean bytes of a value. -/
def leMBytes (n v : Nat) : List MByte := (leBytes n v).map fun b => ⟨b, false⟩

/-- The value of bytes that may be poisoned. -/
def mVal (bs : List MByte) : Nat := leVal (bs.map (·.val))

/-- Whether a byte of a list is poisoned. -/
def anyPoison (bs : List MByte) : Bool := bs.any (·.poison)

/-! ### The home of each location -/

/-- The newest byte of a location in coherence order. -/
def State.homeByte (s : State) (a : Nat) : MByte := ⟨s.mem.get a, s.poison.has a⟩

/-- The `n` newest bytes from a location. -/
def State.homeBytes (s : State) (a n : Nat) : List MByte := (List.range n).map fun i => s.homeByte (a + i)

/-- The 64-bit word at a home. -/
def State.homeWord (s : State) (a : Nat) : DWord := BitVec.ofNat 64 (mVal (s.homeBytes a 8))

/-- Write bytes of memory. -/
def putBytes : Cells → Nat → List MByte → Cells
  | m, _, [] => m
  | m, a, b :: t => putBytes (m.set a b.val) (a + 1) t

/-- Write the poison marks of bytes. -/
def putPoison : AddrSet → Nat → List MByte → AddrSet
  | m, _, [] => m
  | m, a, b :: t => putPoison (m.set a b.poison) (a + 1) t

/-- Whether a write of `n` bytes at `loc` fills the 32-byte sector of byte `a` (R379). -/
def fillsSector (loc n a : Nat) : Bool :=
  let sector := a / 32 * 32
  decide (loc ≤ sector) && decide (sector + 32 ≤ loc + n)

/-- Bytes as a write leaves them over bytes with the poison marks `mark`: poison travels with its data, and bytes of a poisoned
32-byte sector stay poisoned unless the store writes every byte of it (R379; DEDUCED, log entry 8). -/
def mergeMarks (mark : Nat → Bool) (loc : Nat) (bs : List MByte) (whole : Bool) : List MByte :=
  if whole then bs
  else bs.zipIdx.map fun (b, i) =>
    if fillsSector loc bs.length (loc + i) then b else { b with poison := b.poison || mark (loc + i) }

/-- Bytes as a write leaves them at their home (R379). -/
def State.merged (s : State) (loc : Nat) (bs : List MByte) (whole : Bool) : List MByte :=
  mergeMarks s.poison.has loc bs (whole || s.poison.isEmpty)

/-- The frame group of a local physical address (R160). -/
def frameGroup (a : Nat) : Nat := a / 0x1000000

/-- The home stack of a local address in a frame group of a MODE (R160). Where a mode spreads a frame over several stacks, the
256-byte lines go round them (DEDUCED, log entry 21). -/
def homeStack (mode a : Nat) : Nat :=
  let i := a / 0x200000 % 8
  let line := a / 256
  if mode = 0 then line % 8 else if mode = 1 then i / 2 * 2 + line % 2 else i

/-- A store that reaches a frame group marked not live clears NL (R161). -/
def clearNL (f : Tab Byte) (a : Nat) : Tab Byte :=
  if decide (a < 0x8000000000) && ((Tab.find? f (frameGroup a)).getD 0).getLsbD 2 then
    f.put (frameGroup a) (((Tab.find? f (frameGroup a)).getD 0) &&& 0xFB)
  else f

/-- Write bytes at their home, newest in coherence order. -/
def State.homeWrite (s : State) (a : Nat) (bs : List MByte) : State :=
  { s with mem := putBytes s.mem a bs, poison := putPoison s.poison a bs, frames := clearNL s.frames a }

/-! ### Groups and cores by number -/

def State.group (s : State) (g : Nat) : Group := Tab.get { retired := true } s.groups g
def State.setGroup (s : State) (g : Nat) (x : Group) : State := { s with groups := s.groups.put g x }
def State.core (s : State) (c : Nat) : Core := Tab.get {} s.cores c
def State.setCore (s : State) (c : Nat) (x : Core) : State := { s with cores := s.cores.put c x }
def State.modGroup (s : State) (g : Nat) (f : Group → Group) : State := s.setGroup g (f (s.group g))
def State.modCore (s : State) (c : Nat) (f : Core → Core) : State := s.setCore c (f (s.core c))

/-! ### CONFLICT (R309) -/

/-- The lanes of a group whose read set meets written bytes. -/
def conflictLanes (r : Region) (loc n : Nat) : Mask :=
  if r.depth = 0 then 0
  else r.reads.foldl (fun m e => if meets e.loc 128 loc n then m ||| e.mask else m) 0

/-- The checkpoint of an idempotent region meets a store to some bytes, or bytes found poisoned (R308, R309). -/
def Idem.meetStore (loc n : Nat) (e : Idem) : Idem := { e with conflict := e.conflict ||| conflictLanes e.region loc n }
def Idem.meetPoison (loc n : Nat) (e : Idem) : Idem := { e with ue := e.ue ||| conflictLanes e.region loc n }

/-- A group meets a store to some bytes: by its region, and by the regions that its last commit point and the checkpoints of its
idempotent regions hold, to which it may go back (R309, R314, R315). -/
def Group.meetStore (x : Group) (loc n : Nat) : Group :=
  { x with
    conflict := x.conflict ||| conflictLanes x.region loc n,
    point := x.point.map fun c => { c with conflict := c.conflict ||| conflictLanes c.region loc n,
                                           idem := c.idem.map (Idem.meetStore loc n) },
    idem := x.idem.map (Idem.meetStore loc n) }

/-- A group meets bytes found poisoned, as `meetStore` (R308). -/
def Group.meetPoison (x : Group) (loc n : Nat) : Group :=
  { x with
    ue := x.ue ||| conflictLanes x.region loc n,
    point := x.point.map fun c => { c with ue := c.ue ||| conflictLanes c.region loc n, idem := c.idem.map (Idem.meetPoison loc n) },
    idem := x.idem.map (Idem.meetPoison loc n) }

/-- Note a store that has become observable to the cores chosen: every other group there whose read set it meets has a
CONFLICT to take. -/
def State.conflicts (s : State) (loc n : Nat) (on : Nat → Bool) (skip : Option Nat) : State :=
  { s with groups := s.groups.mapVals fun i g =>
      if !g.retired && on g.core && skip != some i then g.meetStore loc n else g }

/-! ### Stores entering the view (R166) -/

/-- View entries for written bytes. -/
def viewPut : Tab ViewEnt → Nat → List MByte → Nat → Nat → Tab ViewEnt
  | v, _, [], _, _ => v
  | v, a, b :: t, seq, sid => viewPut (v.put a ⟨b.val, b.poison, seq, sid⟩) (a + 1) t seq sid

/-- Whether a byte is poisoned as a core's view has it: by its entry, else at the home (R379). -/
def State.viewMark (s : State) (k : Core) (a : Nat) : Bool :=
  match k.view.find? a with
  | some v => v.poison
  | none => s.poison.has a

/-- Whether an access of a core to `n` bytes meets a copy of their line in L1 or L2 that a scrub has found uncorrectable (R380): whether
a line is cached is a free value (DESIGN CHOICE, log entry 84). -/
def State.copyHit (s : State) (k : Core) (a n : Nat) : Bool × State :=
  let met := !k.badCopy.isEmpty && (List.range n).any fun i => k.badCopy.has (a + i)
  (met && s.draw.1 % 2 == 1, { s with free := if met then s.free + 1 else s.free })

/-- A store by group `g` of core `c` enters the core's view, with the poison of what it does not fill (R379). `skip` is a group
whose region it does not disturb. -/
def State.enterStore (s : State) (c g : Nat) (w : Write) (skip : Option Nat) : State :=
  let k := s.core c
  let sid := s.nextSid
  let (hit, s) := s.copyHit k w.loc w.bytes.length
  let bytes := mergeMarks (fun a => s.viewMark k a || (hit && k.badCopy.has a)) w.loc w.bytes w.whole
  let k := { k with
    badCopy := k.badCopy.filter fun (a, _) => !(decide (w.loc ≤ a) && decide (a < w.loc + w.bytes.length)),
    view := viewPut k.view w.loc bytes 0 sid,
    stores := k.stores ++ [{ sid := sid, grp := g, w := { w with bytes := bytes }, plain := 0, eng := 0, seq := 0 }] }
  (({ s with nextSid := sid + 1 }.setCore c k).conflicts w.loc w.bytes.length (· == c) skip).modGroup g fun x =>
    { x with mine := sid :: x.mine }

/-- A commit point (R323, R324): every gated store of a group enters the view, in program order, and the group stands at the
point until its next instruction. -/
def State.flush (s : State) (g : Nat) : State :=
  let x := s.group g
  x.gated.foldl (fun s w => s.enterStore x.core g w none) (s.setGroup g { x with gated := [], passed := 0, atPoint := true })

/-- The state of a group that its last commit point records (R324). -/
def Group.record (x : Group) : Commit :=
  { th := x.th, hnd := x.hnd, stkptr := x.stkptr, faultc := x.faultc, faultva := x.faultva, abortc := x.abortc, np := x.np,
    npClock := x.npClock, region := x.region, perf := x.perf, idem := x.idem, conflict := x.conflict, ue := x.ue }

/-- The oldest gated store of a group enters the view (R166). When none has passed a commit point, the translator has placed
one where the group stands (DEDUCED, log entry 52). -/
def State.flushOne (s : State) (g : Nat) : State :=
  let x := s.group g
  match x.gated with
  | [] => s
  | w :: t =>
    let x := if x.passed = 0 then { x with point := if x.atPoint then x.point else some x.record, since := 0,
                                           passed := x.gated.length } else x
    (s.setGroup g { x with gated := t, passed := x.passed - 1 }).enterStore x.core g w none

/-- Add to a profile counter, saturating (R349). -/
def countUp (t : Tab (BitVec 64)) (i n : Nat) : Tab (BitVec 64) :=
  t.put i (BitVec.ofNat 64 (min ((Tab.get 0 t i).toNat + n) 0xFFFFFFFFFFFFFFFF))

/-- Before a group's next instruction: a commit point that it stands at is recorded and counted, and one is placed where 64
instructions have passed since the last (R323, R349). The translator may have placed one at any other boundary (log entry 14). -/
def State.notePoint (s : State) (g : Nat) : State :=
  let x := s.group g
  let s := if !x.atPoint && decide (64 ≤ x.since) then s.flush g else s
  let x := s.group g
  s.setGroup g (if x.atPoint then
      { x with atPoint := false, point := some x.record, since := 1, keep := false,
               perf := if x.hnd.isSome then x.perf else countUp x.perf 11 1 }
    else { x with since := x.since + 1, keep := false, perf := if x.hnd.isSome then x.perf else countUp x.perf 27 1 })

/-- A group goes back to its last commit point (R325, R384): its gated stores since then are discarded. The lanes of the region held
there whose reads have been met by a store or poison since have their aborts to take (R309, R314). -/
def Group.rewind (x : Group) : Group :=
  if x.atPoint then x
  else match x.point with
    | none => x
    | some c =>
      { x with th := c.th, hnd := c.hnd, stkptr := c.stkptr, faultc := c.faultc, faultva := c.faultva, abortc := c.abortc,
               np := c.np, npClock := c.npClock, region := c.region, perf := c.perf, idem := c.idem, gated := x.gated.take x.passed,
               wait := .none, atPoint := true, conflict := c.conflict, ue := c.ue, charge := false }

/-! ### Publication (R167, R168) -/

/-- Raise the floors of written bytes. -/
def raiseFloor : Tab Nat → Nat → Nat → Nat → Tab Nat
  | f, _, 0, _ => f
  | f, a, n + 1, seq => raiseFloor (f.put a (max (Tab.get 0 f a) seq)) (a + 1) n seq

/-- A store takes its place at its home: newest in coherence order. -/
def State.place (s : State) (core sid : Nat) (loc : Nat) (data : List MByte) (plain eng : Nat) (rels : List Nat)
    (whole : Bool := false) : State :=
  let bytes := s.merged loc data whole
  let e : HistEnt :=
    { seq := s.nextSeq, sid := sid, core := core, loc := loc, bytes := bytes, old := s.homeBytes loc bytes.length,
      plain := plain, eng := eng, rels := rels }
  ({ s with hist := s.hist ++ [e], nextSeq := s.nextSeq + 1 }.homeWrite loc bytes).conflicts loc bytes.length
    (fun c => c != core && (inScope plain core c)) none

/-- Publish one store of core `c` under release `m`. -/
def State.publish (s : State) (c sid m : Nat) : State :=
  let r := Tab.get { core := c, scope := 0, mask := 0, todo := [], known := [], done := true } s.rels m
  match (s.core c).stores.find? (·.sid == sid) with
  | none => s
  | some st =>
    let loc := st.w.loc
    let plain := if covers r.mask loc then max st.plain (pubRank loc r.scope) else st.plain
    let eng := if r.mask.getLsbD 2 then max st.eng (pubRank loc r.scope) else st.eng
    let seq := if st.seq = 0 then s.nextSeq else st.seq
    let wider (e : HistEnt) : HistEnt :=
      if e.seq == seq then { e with plain := plain, eng := eng, rels := m :: e.rels } else e
    let s : State :=
      if st.seq = 0 then s.place c sid loc st.w.bytes plain eng [m] st.w.whole
      else State.conflicts { s with hist := s.hist.map wider } loc st.w.bytes.length
        (fun k => k != c && inScope plain c k && !inScope st.plain c k) none
    let k := s.core c
    s.setCore c { k with
      stores := (k.stores.map fun x =>
        if x.sid == sid then { x with plain := plain, eng := eng, seq := seq } else x).filter
          fun x => !(x.sid == sid && decide (5 ≤ x.plain) && decide (5 ≤ x.eng)),
      view := k.view.mapVals fun _ v => if v.sid == sid then { v with seq := seq } else v,
      floor := raiseFloor k.floor loc st.w.bytes.length seq }

/-- The stores a release at rank `r` and mask `mask` has to publish (R168). -/
def mustPublish (k : Core) (r : Nat) (mask : BitVec 4) : List StoreRec :=
  if r = 0 then []
  else k.stores.filter fun st =>
    (covers mask st.w.loc && decide (st.plain < pubRank st.w.loc r))
    || (mask.getLsbD 2 && decide (st.eng < pubRank st.w.loc r))

/-- The package whose memory a physical location lies in, if it is another package's (R157). -/
def State.farPackage (s : State) (a : Nat) : Option Nat :=
  if a / 0x1000000000000 = 1 then
    let p := (a / 0x8000000000) % 128
    if p = s.pkg % 128 then none else some p
  else none

/-- Whether a location's package is unreachable. -/
def State.unreach (s : State) (a : Nat) : Bool :=
  match s.farPackage a with
  | some p => s.unreachable.contains (s.pkg / 128 * 128 + p)
  | none => false

/-- The rank of the least scope of core `c` that contains a location's home (R171, R222): the core's banks, a peer's, a stack of
the package, of another package, or the host. -/
def State.homeRank (s : State) (c a : Nat) : Nat :=
  if nearKey a then (if (Tab.get {} s.blocks (a / 0x10000000000000 - 1)).core = c then 1 else 2)
  else if spaceBit a = 3 then 5
  else if (s.farPackage a).isSome then 4
  else 3

/-- The stores of a release that can be published next: any with no earlier store of the release to the same bytes. -/
def nextStores (k : Core) (todo : List Nat) : List Nat :=
  let sts := k.stores.filter fun st => todo.contains st.sid
  (sts.filter fun st =>
    !(sts.any fun e => decide (e.sid < st.sid) && meets e.w.loc e.w.bytes.length st.w.loc st.w.bytes.length)).map (·.sid)

/-- Mark the completed releases at the head of a core's list. -/
def State.settle (s : State) (c : Nat) : Nat → State
  | 0 => s
  | fuel + 1 =>
    match (s.core c).rels with
    | [] => s
    | m :: t =>
      match s.rels.find? m with
      | none => (s.modCore c fun k => { k with rels := t }).settle c fuel
      | some r =>
        if r.todo.isEmpty then
          ({ s with rels := s.rels.put m { r with done := true } }.modCore c fun k => { k with rels := t }).settle c fuel
        else s

/-- Publish the store `pick` of a core's oldest release (any number: it is reduced to the stores that may go next). -/
def State.publishOne (s : State) (c pick : Nat) : State :=
  match (s.core c).rels with
  | [] => s
  | m :: _ =>
    match s.rels.find? m with
    | none => s.settle c 1
    | some r =>
      let ready := nextStores (s.core c) r.todo
      match ready[pick % max ready.length 1]? with
      | none => ({ s with rels := s.rels.put m { r with todo := [] } }).settle c ((s.core c).rels.length)
      | some sid =>
        let s := s.publish c sid m
        ({ s with rels := s.rels.put m { r with todo := r.todo.filter (· != sid) } }).settle c ((s.core c).rels.length)

/-- Complete the oldest release of a core (R168). -/
def State.completeRelease (s : State) (c : Nat) : State :=
  match (s.core c).rels with
  | [] => s
  | m :: _ =>
    match s.rels.find? m with
    | none => s.settle c 1
    | some r =>
      let s := r.todo.foldl (fun s sid => s.publish c sid m) s
      ({ s with rels := s.rels.put m { r with todo := [] } }).settle c ((s.core c).rels.length)

/-- Complete every release of a core, in order. -/
def State.completeAll (s : State) (c : Nat) : State :=
  (s.core c).rels.foldl (fun s _ => s.completeRelease c) s

/-- A release on core `c` by group `g` at scope rank `r` over `mask` (R168). The answer is the address of the first store that
an unreachable package did not take: every other store is published first (R186); and the release's number (DEDUCED, log
entry 12). `more` are places of accumulator additions that count for it beside those that the group has joined. -/
def State.releaseOn (s : State) (c g r : Nat) (mask : BitVec 4) (more : List Nat := []) : Option (BitVec 64) × Nat × State :=
  let s := s.flush g
  let x := s.group g
  let all := mustPublish (s.core c) r mask
  let gone (st : StoreRec) : Bool := s.unreach st.w.loc && !st.homed
  let lost := all.filter gone
  let keep := all.filter fun st => !gone st
  let m := Tab.fresh s.rels
  let s := s.modCore c fun k => { k with
    stores := k.stores.filter fun st => !(lost.any fun l => l.sid == st.sid),
    view := k.view.filter fun (_, v) => !(v.sid != 0 && lost.any fun l => l.sid == v.sid),
    rels := k.rels ++ [m] }
  let entry : RelRec := { core := c, scope := r, mask := mask, todo := keep.map (·.sid), known := x.known, done := false }
  -- additions joined before the release count as published by it for R169 (R224)
  let counted (e : HistEnt) : HistEnt :=
    if (x.adds.contains e.seq || more.contains e.seq) && covers mask e.loc && decide (s.homeRank c e.loc ≤ r) then
      { e with adders := m :: e.adders }
    else e
  let s := { s with rels := s.rels.put m entry, hist := s.hist.map counted }
  let s := s.modGroup g fun x => { x with known := m :: x.known }
  (lost.head?.map (·.w.va), m, if lost.isEmpty then s.settle c ((s.core c).rels.length) else s.completeAll c)

/-- A release by group `g` on its own core. -/
def State.release (s : State) (g r : Nat) (mask : BitVec 4) : Option (BitVec 64) × Nat × State :=
  s.releaseOn (s.group g).core g r mask

/-- The releases that happen before a read of a published store by core `c` (R170). -/
def State.relsOf (s : State) (c seq : Nat) : List Nat :=
  if seq = 0 then []
  else match s.hist.find? (·.seq == seq) with
    | none => []
    | some e => e.rels.foldl (fun acc m =>
        match s.rels.find? m with
        | some r => if inScope r.scope r.core c then acc ++ m :: r.known else acc
        | none => acc) []

/-- Add releases to those a group knows. -/
def State.learn (s : State) (g : Nat) (ms : List Nat) : State :=
  if ms.isEmpty then s
  else s.modGroup g fun x => { x with known := x.known ++ ms.filter fun m => !x.known.contains m }

/-- Whether an acquire of rank `r` by core `c` that knows `known` requires a published store (R169). -/
def State.requires (s : State) (c r : Nat) (mask : BitVec 4) (known : List Nat) (e : HistEnt) : Bool :=
  covers mask e.loc && (e.rels ++ e.adders).any fun m =>
    match s.rels.find? m with
    | some q => covers q.mask e.loc && inScope q.scope q.core c && inScope r c q.core && (q.done || known.contains m)
    | none => false

/-- The stores that an acquire by group `g` requires are the least that its core may read from then on (R169). -/
def State.requireStores (s : State) (g r : Nat) (mask : BitVec 4) : State :=
  let x := s.group g
  let k := s.core x.core
  s.setCore x.core { k with floor := s.hist.foldl (fun f e =>
    if s.requires x.core r mask x.known e then raiseFloor f e.loc e.bytes.length e.seq else f) k.floor }

/-- An acquire by group `g` at scope rank `r` over `mask` (R169). A store of the core that is published only at a narrower scope
stays in the view and is read from it, also where the acquire requires a newer one (DEDUCED, log entry 12). -/
def State.acquire (s : State) (g r : Nat) (mask : BitVec 4) : State :=
  let s := s.requireStores g r mask
  let c := (s.group g).core
  let k := s.core c
  let view := if r < 2 then k.view
    else k.view.filter fun (a, v) =>
      !covers mask a || (v.sid != 0 && k.stores.any fun st => st.sid == v.sid && decide (st.plain < pubRank a r))
  s.setCore c { k with view := view, badCopy := if r < 3 then k.badCopy else k.badCopy.filter fun (a, _) => !covers mask a }

/-! ### Reads (R166, R174, R175) -/

/-- The newest gated byte of a location, over one with the poison mark `under` (R379). -/
def gatedByte (ws : List Write) (a : Nat) (under : Bool) : Option MByte :=
  ws.foldl (fun acc w =>
    if w.loc ≤ a ∧ a < w.loc + w.bytes.length then
      w.bytes[a - w.loc]?.map fun b =>
        if w.whole || fillsSector w.loc w.bytes.length a then b
        else { b with poison := b.poison || (acc.map (·.poison)).getD under }
    else acc) none

/-- Whether a gated store writes a location. -/
def isGated (ws : List Write) (a : Nat) : Bool := ws.any fun w => decide (w.loc ≤ a) && decide (a < w.loc + w.bytes.length)

/-- Whether a published store may be seen by core `c` (R166); `eng` for an engine read. -/
def visible (e : HistEnt) (c : Nat) (eng : Bool) : Bool :=
  e.core == c || inScope e.plain e.core c || (eng && inScope e.eng e.core c)

/-- The byte of a published store at a location. -/
def histByte (e : HistEnt) (a : Nat) : Option MByte :=
  if e.loc ≤ a ∧ a < e.loc + e.bytes.length then e.bytes[a - e.loc]? else none

/-- The newest store to a location that a core may see, among those up to place `q`; else the initial value, with
place 0 (R166). -/
def State.pickByte (s : State) (c a q : Nat) (eng : Bool) : MByte × Nat :=
  let es := s.hist.filter fun e => (histByte e a).isSome
  let best := es.foldl (fun (acc : Option HistEnt) e =>
    if visible e c eng && decide (e.seq ≤ q) then some e else acc) none
  match best with
  | some e =>
    -- the newest one stands at the home, with the marks that scrubs have made there (R380)
    (if es.all fun f => decide (f.seq ≤ e.seq) then s.homeByte a else (histByte e a).getD ⟨0, false⟩, e.seq)
  | none =>
    match es with
    | e :: _ => ((if e.loc ≤ a then e.old[a - e.loc]? else none).getD ⟨0, false⟩, 0)
    | [] => (s.homeByte a, 0)

/-- Whether a location has a published store newer than place `q` that core `c` may see: then a read has a choice. -/
def State.hasNewer (s : State) (c a q : Nat) (eng : Bool) : Bool :=
  s.hist.any fun e => (histByte e a).isSome && visible e c eng && decide (q < e.seq)

/-- Whether a view entry is an unpublished store of the core: newer than every place in the coherence order (R167). -/
def ViewEnt.pending (v : ViewEnt) : Bool := v.sid != 0 && v.seq == 0

/-- The places that the view already fixes for some bytes of a load. -/
def pinned (k : Core) (a n : Nat) : List Nat :=
  (List.range n).filterMap fun i => (k.view.find? (a + i)).bind fun v => if v.pending then none else some v.seq

/-- The aligned units of 2, 4 and 8 bytes that hold a load of `n` bytes (R175). -/
def unitsOf (a n : Nat) : List (Nat × Nat) := ([2, 4, 8].filter fun k => decide (n ≤ k)).map fun k => (a / k * k, k)

/-- The places between which a load takes its new bytes, so that no aligned load ever mixes two stores of its own unit, or one
of them and the initial value (R175): at or after the store of such a unit that the view fixes for one of its bytes, and before the next one. -/
def State.unitPlaces (s : State) (k : Core) (c a n : Nat) : Nat × Option Nat :=
  (unitsOf a n).foldl (fun (lo, hi) (u, m) =>
    let es := s.hist.filter fun e => e.loc == u && e.bytes.length == m && visible e c false
    ((pinned k u m).filter fun q => q == 0 || es.any fun e => e.seq == q).foldl (fun (acc : Nat × Option Nat) q =>
      (max acc.1 q, match es.find? fun e => decide (q < e.seq) with
        | none => acc.2
        | some e => some ((acc.2.map fun h => min h e.seq).getD e.seq))) (lo, hi)) (0, none)

/-- The least place that a load of `n` bytes may take its new bytes from (R166): what the core last read or wrote there, and
what acquires require. -/
def leastPlace (k : Core) (a n : Nat) (fresh : Nat → Bool) : Nat :=
  ((List.range n).filter fresh).foldl (fun m i => max m (Tab.get 0 k.floor (a + i))) 0

/-- One byte of a load of core `c`: the gated byte, else the view entry, else the newest store up to place `q`, poisoned where `bad`. It
answers the byte, its place, and whether it has to become a view entry (DEDUCED, log entry 12). -/
def State.loadByte (s : State) (k : Core) (gated : List Write) (c a q : Nat) (bad : Bool) : MByte × Nat × Bool :=
  match gatedByte gated a (s.viewMark k a || bad) with
  | some b => (b, 0, false)
  | none =>
    match k.view.find? a with
    | some v => (⟨v.val, v.poison⟩, v.seq, false)
    | none =>
      let (b, seq) := s.pickByte c a q false
      ({ b with poison := b.poison || bad }, seq, true)

/-- Note a read at a controller of lines whose frame group is marked not live: one for each 256-byte line (R161). -/
def State.noteNonLive (s : State) (a n : Nat) : State :=
  if decide (a < 0x8000000000) && ((Tab.find? s.frames (frameGroup a)).getD 0).getLsbD 2 then
    let off := 0x400000 + 0x100 * homeStack (((Tab.find? s.frames (frameGroup a)).getD 0) &&& 3).toNat a + 0x10
    let lines := (a + n - 1) / 256 + 1 - a / 256
    { s with counters := s.counters.put off (BitVec.ofNat 64 (min (2 ^ 64 - 1) ((Tab.get 0 s.counters off).toNat + lines))) }
  else s

/-- A read that L1 or an L2 copy may serve: only where it reaches the controller does it count as a non-live read (R161;
DESIGN CHOICE, log entry 17). A page with NC, and the policy `.home`, pass the caches by (R165, R181). -/
def State.readHome (s : State) (a n : Nat) (direct : Bool := false) : State :=
  if direct then s.noteNonLive a n
  else if decide (a < 0x8000000000) && ((Tab.find? s.frames (frameGroup a)).getD 0).getLsbD 2 then
    let (q, s) := s.draw
    if q % 2 = 1 then s.noteNonLive a n else s
  else s

/-- Whether a frame group is marked not live (R161). -/
def State.anyNonLive (s : State) : Bool := s.frames.any fun (_, b) => b.getLsbD 2

/-- The read of `n` bytes at physical addresses, line by line, as `readHome` counts it. -/
def State.notePhys (s : State) (a n : Nat) : State :=
  if !s.anyNonLive then s
  else (List.range ((a + n + 255) / 256 - a / 256)).foldl (fun s i => s.readHome (max a ((a / 256 + i) * 256)) 1) s

/-- A load by group `g` of `n` bytes at a location, as one access (R166, R175): the bytes, and the state with the new
view entries and the releases read from. All bytes that the view lacks come from one place in the coherence order, so that
the load never mixes two stores of its size. `direct` is a load that no cache serves. -/
def State.load (s : State) (g a n : Nat) (direct : Bool := false) : List MByte × State :=
  let x := s.group g
  let c := x.core
  let k := s.core c
  let fresh (i : Nat) : Bool := !isGated x.gated (a + i) && (k.view.find? (a + i)).isNone
  let (lo, hi) := s.unitPlaces k c a n
  let least := max lo (leastPlace k a n fresh)
  let choice := (List.range n).any fun i => fresh i && s.hasNewer c (a + i) least false
  let (q, s) := if choice then s.draw else (0, s)
  let q := max least (match hi with | some h => min q (h - 1) | none => q)
  let (hit, s) := if direct then (false, s) else s.copyHit k a n
  let rs := (List.range n).map fun i => (a + i, s.loadByte k x.gated c (a + i) q (hit && k.badCopy.has (a + i)))
  let k' := rs.foldl (fun (k : Core) (b, v, seq, new) =>
    if new then { k with view := k.view.put b ⟨v.val, v.poison, seq, 0⟩,
                         floor := k.floor.put b (max (Tab.get 0 k.floor b) seq) } else k) k
  let s := (s.setCore c k').learn g (rs.foldl (fun acc (_, _, seq, _) => acc ++ s.relsOf c seq) [])
  (rs.map fun (_, v, _) => v, if (List.range n).any fresh then s.readHome a n direct else s)

/-! ### Accesses at the home (R176) -/

/-- View entries for bytes written at the home: an unpublished store of the core is newer for it, and stays (R167). -/
def viewHome : Tab ViewEnt → Nat → List MByte → Nat → Nat → Tab ViewEnt
  | v, _, [], _, _ => v
  | v, a, b :: t, seq, sid =>
    let own := match v.find? a with | some e => e.pending | none => false
    viewHome (if own then v else v.put a ⟨b.val, b.poison, seq, sid⟩) (a + 1) t seq sid

/-- A write that performs at its home at a scope, by group `g` of core `c` (R176, R223): a published store of the core, which a
later release at a wider scope publishes there (R168). -/
def State.homeAccess (s : State) (c g loc : Nat) (bytes : List MByte) (rank : Nat) (rels : List Nat) : State :=
  let seq := s.nextSeq
  let sid := s.nextSid
  let left := s.merged loc bytes false
  let at_ := pubRank loc rank
  let s := State.place { s with nextSid := sid + 1 } c sid loc bytes at_ at_ rels
  let s := s.conflicts loc bytes.length (· == c) none
  let st : StoreRec := { sid := sid, grp := g, w := { loc := loc, bytes := left, va := 0 }, plain := at_, eng := at_, seq := seq, homed := true }
  s.modCore c fun k => { k with
    view := viewHome k.view loc left seq sid, floor := raiseFloor k.floor loc bytes.length seq,
    stores := if 5 ≤ at_ then k.stores else k.stores ++ [st] }

/-- The same by group `g`: its engine operations issued later must see it (R178). -/
def State.homeStore (s : State) (g loc : Nat) (bytes : List MByte) (rank : Nat) (rels : List Nat) : State :=
  (s.homeAccess (s.group g).core g loc bytes rank rels).modGroup g fun x => { x with mine := s.nextSid :: x.mine }

/-- The releases of core `c` among `rel` with a store among `sid` to these bytes left to publish, and the releases before
them, complete: a release that happens before an access at the home places its stores there first (DEDUCED, log entry 12). -/
def State.placeFirst (s : State) (c loc n : Nat) (rel sid : Nat → Bool) : State :=
  let k := s.core c
  let covers (m : Nat) : Bool :=
    rel m && match s.rels.find? m with
      | none => false
      | some r => k.stores.any fun st =>
          r.todo.contains st.sid && sid st.sid && meets st.w.loc st.w.bytes.length loc n
  let rest := k.rels.reverse.dropWhile fun m => !covers m
  rest.foldl (fun s _ => s.completeRelease c) s

/-- A write by an agent that is no core, published at a scope rank under a completed release. -/
def State.outerWrite (s : State) (agent rank loc : Nat) (bytes : List MByte) : State :=
  let m := Tab.fresh s.rels
  let entry : RelRec := { core := agent, scope := rank, mask := 15, todo := [], known := [], done := true }
  State.place { s with rels := s.rels.put m entry } agent 0 loc bytes rank rank [m]

/-- A write by the Mallet cores, published at `.sys`. -/
def State.agentWrite (s : State) (loc : Nat) (bytes : List MByte) : State := s.outerWrite agentCore 5 loc bytes

/-! ### Engine reads (R178) -/

/-- The stores that an engine operation issued now by group `g` must see: the group's own, and those that a release
with the e bit covers and that happens before (R178). -/
def State.engineMust (s : State) (g : Nat) : List Nat :=
  let x := s.group g
  x.mine ++ x.known.foldl (fun acc m =>
    match s.rels.find? m with
    | some r => if r.mask.getLsbD 2 && r.core == x.core then acc ++ r.todo else acc
    | none => acc) []

/-- The least place in coherence order that an engine operation may read at a location (R178). -/
def State.engineFloor (s : State) (c : Nat) (must known : List Nat) (a : Nat) : Nat :=
  s.hist.foldl (fun f e =>
    if (histByte e a).isSome && ((e.sid != 0 && must.contains e.sid) || e.rels.any fun m =>
        known.contains m && match s.rels.find? m with
          | some r => r.mask.getLsbD 2 && inScope r.scope r.core c
          | none => false) then max f e.seq else f) 0

/-- One byte of an engine read with the free choice `q`: a store of the core's view that is not yet published, at or
after the last that it must see; or, where it must see none, also a published store. -/
def State.engineByte (s : State) (c : Nat) (must known : List Nat) (a q : Nat) : MByte :=
  let un := (s.core c).stores.filter fun st =>
    st.seq == 0 && decide (st.w.loc ≤ a ∧ a < st.w.loc + st.w.bytes.length)
  let need := (un.foldl (fun (i, best) st => (i + 1, if must.contains st.sid then i + 1 else best)) (0, 0)).2
  let byteOf (st : StoreRec) : MByte := (st.w.bytes[a - st.w.loc]?).getD ⟨0, false⟩
  if 0 < need then
    match un[need - 1 + q % (un.length + 1 - need)]? with
    | some st => byteOf st
    | none => s.homeByte a
  else
    match un[q % (un.length + 1)]? with
    | some st => byteOf st
    | none => (s.pickByte c a (max (q / (un.length + 1)) (s.engineFloor c must known a)) true).1

/-- Whether an engine read of a byte has a choice. -/
def State.engineChoice (s : State) (c : Nat) (must known : List Nat) (a : Nat) : Bool :=
  ((s.core c).stores.any fun st => st.seq == 0 && decide (st.w.loc ≤ a ∧ a < st.w.loc + st.w.bytes.length))
  || s.hasNewer c a (s.engineFloor c must known a) true

/-- An engine read of `n` bytes at a location by an operation on core `c`; `direct` where no cache serves it. -/
def State.engineRead (s : State) (c : Nat) (must known : List Nat) (a n : Nat) (direct : Bool := false) : List MByte × State :=
  let (q, s) := if (List.range n).any fun i => s.engineChoice c must known (a + i) then s.draw else (0, s)
  let k := s.core c
  let (hit, s) := if direct then (false, s) else s.copyHit k a n
  ((List.range n).map fun i =>
    let b := s.engineByte c must known (a + i) q
    { b with poison := b.poison || (hit && k.badCopy.has (a + i)) }, s.readHome a n direct)

end Sys2Proof.Machine
end

