-- ==== Sys2Proof/Machine/Vm.lean ====
section
/-! DEFINITION. Address translation (R153 to R161), named trees (R274 to R277, R293), and the address checks that loads,
stores, atomics and engines share (R152, R184, R207). -/

namespace Sys2Proof.Machine

/-! ### Fault codes (R54) -/

def fcIllegalPc : Nat := 0x02
def fcPageNotPresent : Nat := 0x03
def fcPageProtection : Nat := 0x04
def fcWriteNamed : Nat := 0x05
def fcMisaligned : Nat := 0x06
def fcScratchBounds : Nat := 0x07
def fcShapeMismatch : Nat := 0x08
def fcShapeBounds : Nat := 0x09
def fcQueueOverflow : Nat := 0x0A
def fcQueueUnderflow : Nat := 0x0B
def fcBarrierOverrun : Nat := 0x0C
def fcNameCollision : Nat := 0x0D
def fcNameBad : Nat := 0x0E
def fcStackLimit : Nat := 0x0F
def fcUncorrectable : Nat := 0x10
def fcSilentMismatch : Nat := 0x11
def fcSoftwareTrap : Nat := 0x12
def fcBreakpoint : Nat := 0x13
def fcNopreemptOverrun : Nat := 0x14
def fcFabricUnreachable : Nat := 0x15
def fcCopyRecordBad : Nat := 0x16

/-! ### Tables by number -/

def State.block (s : State) (b : Nat) : Block := Tab.get {} s.blocks b
def State.setBlock (s : State) (b : Nat) (x : Block) : State := { s with blocks := s.blocks.put b x }
def State.modBlock (s : State) (b : Nat) (f : Block → Block) : State := s.setBlock b (f (s.block b))
def State.launch (s : State) (l : Nat) : Launch := Tab.get {} s.launches l
def State.setLaunch (s : State) (l : Nat) (x : Launch) : State := { s with launches := s.launches.put l x }
def State.modLaunch (s : State) (l : Nat) (f : Launch → Launch) : State := s.setLaunch l (f (s.launch l))
def State.ctx (s : State) (c : Nat) : Ctx := Tab.get {} s.contexts c
def State.setCtx (s : State) (c : Nat) (x : Ctx) : State := { s with contexts := s.contexts.put c x }
def State.modCtx (s : State) (c : Nat) (f : Ctx → Ctx) : State := s.setCtx c (f (s.ctx c))
def State.cluster (s : State) (c : Nat) : Cluster := Tab.get {} s.clusters c
def State.modCluster (s : State) (c : Nat) (f : Cluster → Cluster) : State :=
  { s with clusters := s.clusters.put c (f (s.cluster c)) }
def State.domain (s : State) (d : Nat) : Domain := Tab.get {} s.domains d
/-- Change a domain. One that has been destroyed stays away (R271). -/
def State.modDomain (s : State) (d : Nat) (f : Domain → Domain) : State :=
  if (s.domains.find? d).isSome then { s with domains := s.domains.put d (f (s.domain d)) } else s
def State.op (s : State) (o : Nat) : EngOp :=
  Tab.get { grp := 0, block := 0, core := 0, chan := none, kind := .tzero 0, st := .finished } s.ops o
def State.modOp (s : State) (o : Nat) (f : EngOp → EngOp) : State := { s with ops := s.ops.put o (f (s.op o)) }

/-- The context of a block. -/
def State.ctxOfBlock (s : State) (b : Nat) : Nat := (s.launch (s.block b).launch).ctx

/-- The context of a group. -/
def State.ctxOf (s : State) (g : Nat) : Nat := s.ctxOfBlock (s.group g).block

/-- SCRATCH of a block. -/
def State.scratchOf (s : State) (b : Nat) : Nat := (s.launch (s.block b).launch).kernel.scratch

/-! ### The context descriptor (R352) -/

/-- A word of a context's descriptor. -/
def Ctx.word (c : Ctx) (n : Nat) : DWord := (c.desc[n]?).getD 0

/-- Bits hi:lo of a descriptor word. -/
def Ctx.field (c : Ctx) (n hi lo : Nat) : Nat := (c.word n).toNat / 2 ^ lo % 2 ^ (hi + 1 - lo)

/-- The domain bound as region r, if any (R272, R352). A translation domain that a descriptor names so is bound like any other (DESIGN
CHOICE, log entry 95). -/
def Ctx.region (c : Ctx) (r : Nat) : Option Nat :=
  if (c.word 1).getLsbD r && decide (r < 16) then
    let all := (c.word 2).toNat + (c.word 3).toNat * 2 ^ 64 + (c.word 4).toNat * 2 ^ 128
    some (all / 2 ^ (12 * r) % 4096)
  else none

/-- Whether the context binds a domain. -/
def Ctx.binds (c : Ctx) (d : Nat) : Bool := (List.range 16).any fun r => c.region r == some d

/-! ### Translation (R153 to R157) -/

/-- A translated address: physical address (the own package's domain memory as local), and the leaf entry. -/
structure Phys where
  pa : Nat
  pte : BitVec 64
  deriving DecidableEq, Repr

def Phys.named (p : Phys) : Bool := p.pte.getLsbD 8
def Phys.nc (p : Phys) : Bool := p.pte.getLsbD 7
def Phys.writable (p : Phys) : Bool := p.pte.getLsbD 2
/-- The class of a physical address (R157). -/
def Phys.cls (p : Phys) : Nat := p.pa / 0x1000000000000

/-- Whether a physical address is reserved (R157). -/
def reservedPa (a : Nat) : Bool :=
  let c := a / 0x1000000000000 % 16
  decide (4 ≤ c) || (c == 0 && a / 0x8000000000 % 512 != 0) || (c == 1 && a / 0x400000000000 % 4 != 0)

/-- The local form of a physical address: the own package's domain memory is its local HBM4 (R157). -/
def State.localPa (s : State) (a : Nat) : Nat :=
  if a / 0x1000000000000 = 1 ∧ (a / 0x8000000000) % 128 = s.pkg % 128 then a % 0x8000000000 else a

/-- The shift and the number of entries of a table with `fuel` levels below it: 3 is level 0, and 0 is level 3 (R154). -/
def walkSpan (fuel : Nat) : Nat × Nat :=
  match fuel with | 3 => (39, 131072) | 2 => (30, 512) | 1 => (21, 512) | _ => (16, 32)

/-- What an entry of a table leads to: the next table, or a leaf's page (R155 to R157). Nothing where a walk stops (R156). -/
def State.entryGoes (s : State) (fuel : Nat) (e : BitVec 64) : Option (Bool × Nat) :=
  let addr := e.toNat / 0x1000 % 0x10000000000 * 0x1000
  let mbz := e.toNat / 2 ^ 52 != 0 || e.toNat / 2 ^ 9 % 8 != 0 || e.toNat / 2 ^ 3 % 16 != 0
  if !e.getLsbD 0 || mbz || reservedPa addr then none
  else if e.getLsbD 1 then (if fuel = 0 then none else some (true, s.localPa addr))  -- its field aligns a table to 4 KiB
  else if fuel = 3 || addr % 2 ^ (walkSpan fuel).1 != 0 then none
  else some (false, s.localPa addr)

/-- The root table of a context, whose address may name the own package's memory as domain memory (R157). -/
def State.rootTable (s : State) (c : Ctx) : Nat := s.localPa ((c.word 0).toNat % 2 ^ 52)

/-- A walk from a table (R154, R156): the leaf's entry, and the page's base and size. `fuel` 4 is level 0. It reads a table that lies
in a frame group of the reserved MODE as any other (DEDUCED, log entry 71). -/
def State.walk (s : State) (va : Nat) (table : Nat) : Nat → Option (BitVec 64 × Nat × Nat)
  | 0 => none
  | fuel + 1 =>
    let (shift, count) := walkSpan fuel
    let e := s.homeWord (table + 8 * (va / 2 ^ shift % count))
    match s.entryGoes fuel e with
    | none => none
    | some (true, next) => s.walk va next fuel
    | some (false, _) => some (e, va / 2 ^ shift * 2 ^ shift, 2 ^ shift)

/-- The addresses of the entries that a walk reads, at their homes (R156). -/
def State.walkReads (s : State) (va : Nat) (table : Nat) : Nat → List Nat
  | 0 => []
  | fuel + 1 =>
    let (shift, count) := walkSpan fuel
    let at_ := table + 8 * (va / 2 ^ shift % count)
    match s.entryGoes fuel (s.homeWord at_) with
    | some (true, next) => at_ :: s.walkReads va next fuel
    | _ => [at_]

/-- The physical address that a leaf entry gives an address in its page. -/
def State.leafPa (s : State) (va base : Nat) (e : BitVec 64) : Nat :=
  s.localPa (e.toNat / 0x1000 % 0x10000000000 * 0x1000 + (va - base))

/-- The bound view window of a view number in a context (R292). -/
def Ctx.view (c : Ctx) (v : Nat) : Option Bound := c.bound.find? (·.view == v)

/-- Whether a physical address can be reached: not in a frame group of the reserved MODE (R160). -/
def State.reachable (s : State) (a : Nat) : Bool :=
  !decide (a < 0x8000000000) || ((Tab.find? s.frames (frameGroup a)).getD 0) &&& 3 != 3

/-- Whether a page lies in the window of an unbound view, from which no load reads (R293). -/
def State.unboundView (s : State) (ctx : Nat) (p : Phys) : Bool :=
  p.cls == 3 && ((s.ctx ctx).view (p.pa / 0x1000000000 % 4096)).isNone

/-- The mappings an access to `va` may use: the page tables', and any other that a TLB still holds (R159). -/
def State.mappings (s : State) (ctx va : Nat) : List (Option (BitVec 64 × Nat × Nat)) :=
  let now := s.walk va (s.rootTable (s.ctx ctx)) 4
  let old := s.tlb.filter fun t => t.ctx == ctx && decide (t.base ≤ va ∧ va < t.base + t.size)
  let old := old.filter fun t => now != some (t.pte, t.base, t.size)
  now :: old.map fun t => some (t.pte, t.base, t.size)

/-- Remember a mapping as a TLB may (DESIGN CHOICE, log entry 13). -/
def State.fillTlb (s : State) (ctx : Nat) (m : BitVec 64 × Nat × Nat) : State :=
  let e : TlbEnt := { ctx := ctx, base := m.2.1, size := m.2.2, pte := m.1 }
  if s.tlb.contains e then s else { s with tlb := e :: s.tlb }

/-- The walk of an address, as reads at the tables' homes: those in groups marked not live are counted, where no TLB spares the walk
(R156, R161; DESIGN CHOICE, log entry 17). -/
def State.noteWalk (s : State) (ctx va : Nat) : State :=
  if !s.anyNonLive then s
  else (s.walkReads va (s.rootTable (s.ctx ctx)) 4).foldl (fun s a =>
    if s.tlb.any fun t => t.ctx == ctx && decide (t.base ≤ va ∧ va < t.base + t.size) then s.readHome a 8
    else s.noteNonLive a 8) s

/-- A mapping that an access to `va` uses, or none where no page is present (DESIGN CHOICE, log entry 13). -/
def State.pickMapping (s : State) (ctx va : Nat) : Option (BitVec 64 × Nat × Nat) × State :=
  match s.mappings ctx va with
  | [m] => (m, s.noteWalk ctx va)
  | ms => let (q, s) := s.draw; ((ms[q % max ms.length 1]?).getD none, s.noteWalk ctx va)

/-- The physical address of `va` by a mapping. -/
def State.mapped (s : State) (ctx va : Nat) (m : Option (BitVec 64 × Nat × Nat)) : Option Phys × State :=
  match m with
  | none => (none, s)
  | some (e, base, size) =>
    let pa := s.leafPa va base e
    if s.reachable pa then (some ⟨pa, e⟩, s.fillTlb ctx (e, base, size)) else (none, s)

/-- Translate a 56-bit virtual address of a context: a physical address, or none for PAGE_NOT_PRESENT (DESIGN CHOICE, log
entry 13). -/
def State.translate (s : State) (ctx va : Nat) : Option Phys × State :=
  if 2 ^ 56 ≤ va then (none, s)
  else
    let (m, s) := s.pickMapping ctx va
    s.mapped ctx va m

/-- A page that an instruction has translated in one of its passes (R162): its addresses, and the mapping used. -/
structure PageUse where
  pass : Nat
  base : Nat
  size : Nat
  map : Option (BitVec 64 × Nat × Nat)
  deriving DecidableEq, Repr

/-- Translate an address of a pass: each distinct page is translated once (R162). A page that is not present stands for 64 KiB,
the least size. -/
def State.translateOnce (s : State) (ctx va pass : Nat) (seen : List PageUse) : Option Phys × List PageUse × State :=
  if 2 ^ 56 ≤ va then (none, seen, s)
  else match seen.find? fun u => u.pass == pass && decide (u.base ≤ va) && decide (va < u.base + u.size) with
    | some u =>
      let (r, s) := s.mapped ctx va u.map
      (r, seen, s)
    | none =>
      let (m, s) := s.pickMapping ctx va
      let use : PageUse := match m with
        | some (_, base, size) => ⟨pass, base, size, m⟩
        | none => ⟨pass, va / 65536 * 65536, 65536, none⟩
      let (r, s) := s.mapped ctx va m
      (r, use :: seen, s)

/-- The leaves that the page tables list under a table (R154 to R156): physical address, size and entry. Levels as in a walk. -/
def State.leaves (s : State) (table : Nat) : Nat → List (Nat × Nat × BitVec 64)
  | 0 => []
  | fuel + 1 =>
    let (shift, count) := walkSpan fuel
    let listed := (s.mem.filter fun (k, _) => decide (table ≤ k) && decide (k < table + 8 * count)).map fun (k, _) => (k - table) / 8
    listed.eraseDups.flatMap fun i =>
      let e := s.homeWord (table + 8 * i)
      match s.entryGoes fuel e with
      | none => []
      | some (true, next) => s.leaves next fuel
      | some (false, a) => [(a, 2 ^ shift, e)]

/-- Whether a page of a context, or a translation that a TLB keeps, maps a byte of a physical range; `plain` asks for ordinary pages
alone, whose entry has N clear (R161, R271). -/
def State.pageMaps (s : State) (a n : Nat) (plain : Bool) : Bool :=
  let hit (x : Nat × Nat × BitVec 64) : Bool := meets x.1 x.2.1 a n && !(plain && x.2.2.getLsbD 8)
  (s.contexts.any fun (_, c) => (s.leaves (s.rootTable c) 4).any hit)
    || s.tlb.any fun t => hit (s.localPa (t.pte.toNat / 0x1000 % 0x10000000000 * 0x1000), t.size, t.pte)

/-- How an access uses memory. -/
inductive Use
  | load | store
  deriving DecidableEq, Repr

/-- The faults of a translated access in order (R156). -/
def Phys.useFault (p : Phys) (u : Use) : Option Nat :=
  match u with
  | .load => none
  | .store =>
    if p.named || p.cls == 3 then some fcWriteNamed
    else if !p.writable then some fcPageProtection
    else none

/-- Translate and check one global access (R184 items 3 to 5): a physical address or a fault code. -/
def State.access (s : State) (ctx va : Nat) (u : Use) : Except Nat Phys × State :=
  match s.translate ctx va with
  | (none, s) => (.error fcPageNotPresent, s)
  | (some p, s) =>
    match p.useFault u with
    | some f => (.error f, s)
    | none => (if s.unboundView ctx p then .error fcPageNotPresent else .ok p, s)

/-! ### Named trees (R274 to R276) -/

/-- The kind of a name (R274). -/
def nameKind (n : Name) : Nat := n.toNat / 2 ^ 124
/-- The zero-line name and the empty name. -/
def zeroName : Name := 0x20000000000000000000000000000000
def emptyName : Name := 0x30000000000000000000000000000000
/-- R274: kinds 4 to 15, and a kind 2 or 3 with other bits set, are invalid. -/
def nameValid (n : Name) : Bool := decide (nameKind n ≤ 1) || n == zeroName || n == emptyName

/-- The line of a name in a domain. -/
def Domain.find (d : Domain) (n : Name) : Option Line := d.lines.find? (·.name == n)

/-- A child name of a node line (R276). -/
def childName (bs : List MByte) (c : Nat) : Name := BitVec.ofNat 128 (mVal ((bs.drop (16 * c)).take 16))

/-- Byte `o` of a tree of depth `d` (R276, R293), or none for a shape error. The walk goes on through a node line with poisoned bytes
by the names it holds (DEDUCED, log entry 68). -/
def Domain.treeByte (dom : Domain) (n : Name) : Nat → Nat → Option MByte
  | 0, o =>
    if n == zeroName || n == emptyName then some ⟨0, false⟩
    else if nameKind n != 0 then none
    else match dom.find n with
      | none => none
      | some l => l.bytes[o % 256]?
  | d + 1, o =>
    if n == zeroName || n == emptyName then some ⟨0, false⟩
    else if nameKind n != 1 then none
    else match dom.find n with
      | none => none
      | some l => dom.treeByte (childName l.bytes (o / (256 * 16 ^ d) % 16)) d o

/-- A byte of a bound window at offset `o`: zero from LEN on (R293). -/
def State.viewByte (s : State) (b : Bound) (o : Nat) : Option MByte :=
  if b.len ≤ o then some ⟨0, false⟩ else (s.domain b.dom).treeByte b.name b.depth o

/-- The bytes of a load from a bound window, or none for a shape error (R293). -/
def State.viewBytes (s : State) (ctx a n : Nat) : Option (List MByte) :=
  match (s.ctx ctx).view (a / 0x1000000000 % 4096) with
  | none => none
  | some b => (List.range n).mapM fun i => s.viewByte b (a % 0x1000000000 + i)

/-! ### Scratchpad and peer addresses (R151, R152) -/

/-- A scratchpad offset of a block as a location, or none out of bounds. -/
def State.scratchLoc (s : State) (b off n : Nat) : Option Nat :=
  if off + n ≤ s.scratchOf b then some (scratchKey b + off) else none

/-- The blocks of a block's launch cluster (R130). -/
def State.clusterBlocks (s : State) (b : Nat) : List Nat :=
  let x := s.block b
  (s.blocks.filter fun (_, y) => y.launch == x.launch && y.clus == x.clus).map (·.1)

/-- The block that a peer rank names (R152). -/
def State.peerBlock (s : State) (b rank : Nat) : Option Nat :=
  (s.clusterBlocks b).find? fun p => (s.block p).rank == rank

/-- A peer address as a location and the block it reaches, or none out of bounds (R152). A block of the cluster that has retired is still
reached under its rank, with the bytes that its scratchpad held (DESIGN CHOICE, log entry 96). -/
def State.peerLoc (s : State) (b ea n : Nat) : Option (Nat × Nat) :=
  if ea / 2 ^ 35 != 0 then none
  else match s.peerBlock b (ea / 2 ^ 32) with
    | none => none
    | some p => (s.scratchLoc p (ea % 2 ^ 32) n).map fun l => (p, l)

/-! ### Global memory as system software and engines use it -/

/-- Read `n` bytes of a context's virtual memory at their homes, page by page; none where a byte is not mapped. -/
def State.readVirtual (s : State) (ctx va n : Nat) : Option (List MByte) :=
  (List.range n).mapM fun i =>
    match s.translate ctx (va + i) with
    | (none, _) => none
    | (some p, _) =>
      if p.cls == 3 then (s.viewBytes ctx p.pa 1).bind List.head? else some (s.homeByte p.pa)

/-- The reads of `n` bytes of a context's virtual memory at their homes, counted where their groups are not live, line by line
(R161). -/
def State.noteVirtual (s : State) (ctx va n : Nat) : State :=
  let lines := (va + n + 255) / 256 - va / 256
  if !s.anyNonLive then s
  else (List.range lines).foldl (fun s i =>
    let a := max va ((va / 256 + i) * 256)
    match s.translate ctx a with
    | (some p, s) => s.readHome p.pa 1
    | (none, s) => s) s

/-- Write bytes to a context's virtual memory as system software does; false where a byte is not mapped. -/
def State.writeVirtual (s : State) (ctx va : Nat) (bs : List Byte) : Bool × State :=
  match s.translate ctx va with
  | (none, s) => (false, s)
  | (some p, s) => (true, s.agentWrite p.pa (bs.map fun b => ⟨b, false⟩))

end Sys2Proof.Machine
end

