-- ==== Sys2Proof/Machine/Load.lean ====
section
/-! DEFINITION. The load checks of a kernel object, in the order of R50 and R421: header, sections, signatures, security
version, resources, entry records, and every code word (R45, R126, R129, R131, R304, R336, R342). -/

namespace Sys2Proof.Machine

/-- Load statuses (R50, R356). -/
def ldEncoding : Nat := 0x01
def ldHeader : Nat := 0x40
def ldSection : Nat := 0x41
def ldSignature : Nat := 0x42
def ldWithdrawn : Nat := 0x43
def ldResource : Nat := 0x44
def ldEntry : Nat := 0x45
def ldNoObject : Nat := 0x53

/-- A reader of object bytes: offset and length to bytes, or none where a byte cannot be read. -/
abbrev Reader := Nat → Nat → Option (List Byte)

/-- A status and the offset reported with it. -/
abbrev LoadError := Nat × Nat

/-- Read bytes or fail with LAUNCH_NO_OBJECT (R357). -/
def Reader.bytes (rd : Reader) (off n : Nat) : Except LoadError (List Byte) :=
  match rd off n with
  | some b => .ok b
  | none => .error (ldNoObject, 0)

/-- Read a 64-bit word of the object. -/
def Reader.word (rd : Reader) (off : Nat) : Except LoadError Nat := (rd.bytes off 8).map leVal

/-- Bits hi:lo of a number. -/
def nbits (x hi lo : Nat) : Nat := x / 2 ^ lo % 2 ^ (hi + 1 - lo)

/-- Fail with a status and an offset unless a check holds. -/
def ensure (ok : Bool) (status off : Nat) : Except LoadError Unit := if ok then .ok () else .error (status, off)

/-- A directory entry (R46). -/
structure Sect where
  off : Nat
  ty : Nat
  size : Nat
  deriving DecidableEq, Repr

/-- Whether a section's SIZE keeps its limit (R47). -/
def Sect.sizeOk (x : Sect) : Bool :=
  if x.ty == 1 then x.size % 8 == 0 && decide (x.size ≤ 0x80000000)
  else if x.ty == 2 then x.size % 16 == 0
  else if x.ty == 3 then decide (x.size ≤ 131072)
  else if x.ty == 5 then x.size == 32
  else if x.ty == 6 then x.size % 8 == 0
  else if x.ty == 8 then x.size == 3392
  else true

/-- Read and check the directory entries in ascending index (R421). -/
def readSects (rd : Reader) (objlen : Nat) : Nat → Nat → List Sect → Except LoadError (List Sect)
  | 0, _, acc => .ok acc
  | n + 1, i, acc => do
    let at_ := 16 + 16 * i
    let w0 ← rd.word at_
    let w1 ← rd.word (at_ + 8)
    let x : Sect := { off := nbits w0 63 32, ty := nbits w0 7 0, size := nbits w1 31 0 }
    let ok := nbits w0 31 8 == 0 && nbits w1 63 32 == 0 && decide (1 ≤ x.ty ∧ x.ty ≤ 8) && x.off % 8 == 0
      && decide (x.off + x.size ≤ objlen) && x.sizeOk && (x.ty == 7 || !acc.any fun y => y.ty == x.ty)
    ensure ok ldSection at_
    readSects rd objlen n (i + 1) (acc ++ [x])

/-- Whether section i overlaps another section of lower OFFSET, or of equal OFFSET and lower index (R421). -/
def overlapsEarlier (xs : List Sect) (i : Nat) (x : Sect) : Bool :=
  xs.zipIdx.any fun (y, j) => j != i && (decide (y.off < x.off) || (y.off == x.off && decide (j < i)))
    && decide (x.off < y.off + y.size) && decide (0 < x.size)

/-- Check 2 (R47, R421): the directory word and the sections. The last section is taken as the one of the highest OFFSET, wherever its
directory entry stands (DEDUCED, log entry 70). -/
def checkSections (rd : Reader) (objlen w1 : Nat) : Except LoadError (List Sect) := do
  let nsec := nbits w1 31 16
  ensure (decide (2 ≤ nsec ∧ nsec ≤ 64) && nbits w1 15 0 == 0 && decide (16 + 16 * nsec ≤ objlen)) ldSection 8
  let xs ← readSects rd objlen nsec 0 []
  match xs.zipIdx.find? fun (x, i) => overlapsEarlier xs i x with
  | some (_, i) => .error (ldSection, 16 + 16 * i)
  | none =>
    ensure ([1, 2, 5, 8].all fun t => xs.any (·.ty == t)) ldSection 8
    let sig := xs.findIdx (·.ty == 8)
    ensure (xs.any fun x => x.ty == 8 && x.off + x.size == objlen && xs.all fun y => decide (y.off ≤ x.off)) ldSection
      (16 + 16 * sig)
    .ok xs

/-- The section of a type. -/
def sectOf (xs : List Sect) (t : Nat) : Sect := (xs.find? (·.ty == t)).getD ⟨0, t, 0⟩

/-- Whether both signatures of a block verify under keys of the store that `use` admits (R49, R370, R390). A block whose bytes that
R49 calls zero are not zero does not verify (DEDUCED, log entry 75). -/
def sigOk (keys : Tab KeyEnt) (use : KeyEnt → Bool) (blk : List Byte) (msg : List Byte) : Bool :=
  let pick (ml : Bool) (off : Nat) :=
    ((keys.map (·.2)).find? fun e => e.ml == ml && use e && e.ident == (blk.drop off).take 8).map (·.key)
  match pick false 0, pick true 72 with
  | some k1, some k2 =>
    Ed25519.verify k1 msg ((blk.drop 8).take 64) && MlDsa.verify k2 msg ((blk.drop 80).take 3309)
      && ((blk.drop 3389).take 3).all (· == 0)
  | _, _ => false

/-- Check 5 (R47, R129, R421): the kernel descriptor's four words. -/
def checkKdesc (l16 : Bool) (w0 w1 w2 w3 : Nat) : Except LoadError Unit := do
  let bx := nbits w0 15 0
  let bY := nbits w0 31 16
  let bz := nbits w0 47 32
  let dim (n : Nat) : Bool := decide (1 ≤ n ∧ n ≤ 1024)
  ensure (dim bx) ldResource 0
  ensure (dim bY) ldResource 2
  ensure (dim bz) ldResource 4
  ensure (decide (bx * bY * bz ≤ 1024) && (!l16 || decide (bx * bY * bz ≤ 512))) ldResource 0
  ensure (nbits w0 63 48 == 0) ldResource 6
  ensure (nbits w1 31 0 % 256 == 0 && decide (nbits w1 31 0 ≤ 458752)) ldResource 8
  ensure (decide (nbits w1 39 32 ≤ 16)) ldResource 12
  ensure (nbits w1 63 40 == 0) ldResource 13
  ensure (nbits w2 63 16 == 0) ldResource 18
  ensure (decide (nbits w3 31 0 ≤ 131072)) ldResource 24
  ensure (nbits w3 63 32 == 0) ldResource 28

/-- Whether a NAME and its zero byte lie in one SYMBOL section (R47). -/
def nameOk (rd : Reader) (xs : List Sect) (nm : Nat) : Except LoadError Bool :=
  if nm = 0xFFFFFFFF then .ok true
  else match xs.find? fun x => x.ty == 7 && decide (x.off ≤ nm ∧ nm < x.off + x.size) with
    | none => .ok false
    | some x => (rd.bytes nm (x.off + x.size - nm)).map fun b => b.contains 0

/-- The ENTRY records (R47, R126, R421). The kernel body ends at the lowest WOFF of a KIND 2 record. -/
def checkEntries (rd : Reader) (xs : List Sect) (code : List DWord) (all : List EntryRec) :
    Nat → Nat → Except LoadError Unit
  | 0, _ => .ok ()
  | n + 1, i => do
    let off := (sectOf xs 2).off + 16 * i
    let w0 ← rd.word off
    let w1 ← rd.word (off + 8)
    let kind := nbits w0 39 32
    let woff := nbits w0 31 0
    let kend := all.foldl (fun m e => if e.kind == 2 then min m e.woff else m) code.length
    let shape := decide (kind ≤ 2) && nbits w0 63 40 == 0 && nbits w1 63 32 == 0 && isBase code woff
      && (kind == 2 || decide (woff < kend))
    ensure shape ldEntry i
    let ok ← nameOk rd xs (nbits w1 31 0)
    ensure ok ldEntry i
    checkEntries rd xs code all n (i + 1)

/-- Read the ENTRY records. -/
def readEntries (rd : Reader) (off : Nat) : Nat → Except LoadError (List EntryRec)
  | 0 => .ok []
  | n + 1 => do
    let w ← rd.word off
    let t ← readEntries rd (off + 16) n
    .ok (⟨nbits w 31 0, nbits w 39 32⟩ :: t)

/-- The IDEM records: base-word boundaries, one function, no overlap (R47). `n` is the number of ENTRY records. A record whose STOP is
not past its START is rejected too (DEDUCED, log entry 75). -/
def checkIdem (k : Kernel) (n : Nat) : List (Nat × Nat) → List (Nat × Nat) → Except LoadError (List (Nat × Nat))
  | [], acc => .ok acc
  | (a, b) :: t, acc => do
    let ok := decide (a < b) && isBase k.code a && (isBase k.code b || b == k.code.length)
      && k.bodyOf a == k.bodyOf (b - 1) && acc.all fun (c, d) => decide (b ≤ c ∨ d ≤ a)
    ensure ok ldEntry (n + acc.length)
    checkIdem k n t (acc ++ [(a, b)])

/-- Read words from an offset. -/
def readWords (rd : Reader) (off : Nat) : Nat → Except LoadError (List DWord)
  | 0 => .ok []
  | n + 1 => do
    let w ← rd.word off
    let t ← readWords rd (off + 8) n
    .ok (BitVec.ofNat 64 w :: t)

/-! ### Check 7: the code words -/

/-- Whether an instruction may stand in a handler object (R336); RTE stands in no other (R336). -/
def handlerOk (i : Instr) (handler : Bool) : Bool :=
  match i with
  | .rte _ | .rteSkip _ | .rteEnd _ | .rteAbort _ => handler
  | .shfl _ | .qswp _ | .qbcast _ | .vote _ | .gred _ | .gscan _ | .matchOp _
  | .call _ | .callx _ | .ret _ | .endOp _ | .spawn _ | .yield _ | .trap _ | .bkpt _ | .npbeg _ | .npend _
  | .barv _ | .barw _ | .bars _ | .barq _ | .waitc _
  | .cpy _ | .cpyx _ | .cpya _ | .cpyd _ | .chcfg _ | .wmark _ | .yieldc _ | .fsend _ | .spred _
  | .mma _ | .tzero _ | .tload _ | .tdrain _ | .qpop _ | .qstore _ | .qsend _ | .qstat _
  | .nput _ | .nhash _ | .nget _ | .nroot _ | .nswap _ | .npin _ | .nunpin _ | .nbind _ | .nunbind _ | .ncopy _
  | .nstat _ | .tryOp _ | .commit _ | .abort _ | .tstat _ => !handler
  | _ => true

/-- Whether an instruction is rejected inside an idempotent region (R342). -/
def idemBad (i : Instr) : Bool :=
  match i with
  | .atom _ | .atoms _ | .atomp _ | .acas _ | .acass _ | .red _ | .reds _ | .barv _ | .barw _ | .bars _ | .barq _
  | .spawn _ | .yield _ | .yieldc _ | .npbeg _ | .npend _ | .cpya _ | .fsend _ | .spred _ | .tryOp _ | .commit _
  | .abort _ | .nput _ | .nswap _ | .npin _ | .nunpin _ | .nbind _ | .nunbind _ => true
  | _ => false

/-- Opcodes 0xD0 to 0xE3 are not defined in version 2 (R48). -/
def version3Only (w : DWord) : Bool :=
  let op := w.toNat / 2 ^ 56
  decide (0xD0 ≤ op ∧ op ≤ 0xE3)

/-- A tile index is below TILES (R35, R258); QSTAT accepts tile 0 when TILES = 0. -/
def tileOk (k : Kernel) (i : Instr) : Bool :=
  match i with
  | .mma f => decide (f.d.toNat < k.tiles)
  | .tzero f | .tload f => decide (f.d.toNat < k.tiles)
  | .tdrain f => decide (f.d.toNat < k.tiles)
  | .qstat f => decide (f.tile.toNat < max k.tiles 1)
  | _ => true

/-- A grid barrier needs COSCHED (R131, R191). -/
def gridOk (k : Kernel) (i : Instr) : Bool :=
  match i with
  | .barv f | .barw f | .bars f | .barq f => f.scope != .grid || k.cosched
  | _ => true

/-- Whether a word that IMM32 names is a base word of the body that holds word `n`. -/
def targetOk (k : Kernel) (n : Nat) (imm : BitVec 32) : Bool :=
  let t := targetWord n imm
  decide (0 ≤ t) && k.inBody (k.bodyOf n) t.toNat

/-- A path of a TRY's body leads from the next word to J, the exit or the abort target without passing a COMMIT (R304). A
COMMIT that is itself J or the abort target has not been passed when it is reached (DEDUCED, log entry 50). -/
def tryLeak (k : Kernel) (n : Nat) (f : TryOp) : Bool :=
  let b := k.bodyOf n
  let nx := n + lenAt k.code n
  let start := if nx < k.bodyEnd b then nx else exitNode
  let isCommit (w : Nat) : Bool := match instrAt k.code w with | .ok (.commit _) => true | _ => false
  let seen := k.reachFrom b [start] isCommit
  let bad (w : Nat) : Bool :=
    w == exitNode || w == (targetWord n f.target).toNat || k.joinOf b n == some w
  seen.any bad

/-- The branch targets, entry indices and body rules of R45 check 7, R126 and R304. -/
def flowOk (k : Kernel) (n : Nat) (i : Instr) : Bool :=
  match i with
  | .bra f => targetOk k n f.target
  | .brx f => targetOk k n f.join
  | .yieldc f => targetOk k n f.target
  | .call f =>
    let t := targetWord n f.imm
    decide (0 ≤ t) && k.starts.contains t.toNat
  | .ret _ => k.isFunction (k.bodyOf n)
  | .spawn f => match k.entries[f.entry.toNat]? with | some e => e.kind == 1 | none => false
  | .tryOp f => targetOk k n f.target && !tryLeak k n f
  | _ => true

/-- An immediate lane index of 16 or more is rejected in legacy width (R108). -/
def laneOk (k : Kernel) (i : Instr) : Bool :=
  match i with
  | .lget f | .lput f =>
    match f.b with
    | .imm14 v => !k.l16 || decide (v.toNat < 16)
    | .imm32 v => !k.l16 || decide (v.toNat < 16)
    | _ => true
  | _ => true

/-- Whether an instruction may stand at base word `n`, its targets apart (R45, R48; DEDUCED, log entry 46). -/
def instrOk (k : Kernel) (handler : Bool) (n : Nat) (i : Instr) : Bool :=
  !(k.ver == 2 && version3Only ((k.code[n]?).getD 0)) && handlerOk i handler && laneOk k i && tileOk k i && gridOk k i
    && !(idemBad i && k.idem.any fun (a, b) => decide (a ≤ n ∧ n < b))

/-- Whether the base word `n` is good with its extension word (R45). -/
def wordOk (k : Kernel) (handler : Bool) (n : Nat) : Bool :=
  match instrAt k.code n with
  | .error _ => false
  | .ok i => instrOk k handler n i && flowOk k n i

/-- Extension words that stand for every use of C and M8 by an entry: operation and type codes in C, and modes, masks, types and
operand classes in M8. -/
def plainExts : List DWord :=
  (List.range 256).flatMap fun m8 => (List.range 320).map fun c => BitVec.ofNat 64 (c * 2 ^ 50 + m8 * 2 ^ 40)

/-- Whether the fault of an instruction lies in its extension word: with another one its base word is good (R45). -/
def extBad (k : Kernel) (handler : Bool) (n : Nat) : Bool :=
  let w := (k.code[n]?).getD 0
  w.getLsbD 50 && plainExts.any fun e =>
    match decode w (some e) with
    | .ok i => instrOk k handler n i
    | .error _ => false

/-- The first bad word of the instruction at base word `n`: the base word, or the extension word whose field is at fault (R45). A TRY
is reported at its own offset (R304). -/
def badWord (k : Kernel) (handler : Bool) (n : Nat) : Nat :=
  match instrAt k.code n with
  | .ok i =>
    if instrOk k handler n i then
      match i with
      | .ret _ | .tryOp _ => n
      | _ => n + 1
    else if extBad k handler n then n + 1 else n
  | .error _ => if (n + 1 < k.code.length) && extBad k handler n then n + 1 else n

/-- Check 7: the first bad word (R45, R50). -/
def checkCode (k : Kernel) (handler : Bool) : Except LoadError Unit :=
  match (List.range k.code.length).find? fun n => isBase k.code n && !wordOk k handler n with
  | some n => .error (ldEncoding, badWord k handler n)
  | none => .ok ()

/-- The checks of R50 on an object, in order; `handler` adds R336. With the statuses for which R50 lists no offset (the
signatures, the version) the offset is 0; an OBJLEN of 0 or 8 is refused by check 1 (DESIGN CHOICE, log entry 64). -/
def loadObject (rd : Reader) (keys : Tab KeyEnt) (counter : Nat) (handler : Bool) : Except LoadError Kernel := do
  let w0 ← rd.word 0
  let w1 ← rd.word 8
  let ver := nbits w0 47 40
  let objlen := nbits w1 63 32
  ensure (nbits w0 63 48 == 0x4D42 && (ver == 3 || (ver == 2 && !handler)) && nbits w0 37 32 == 0 && nbits w0 15 0 == 0
    && objlen % 8 == 0 && decide (16 ≤ objlen)) ldHeader 0
  let xs ← checkSections rd objlen w1
  let sigAt := (sectOf xs 8).off
  let blk ← rd.bytes sigAt 3392
  let msg ← rd.bytes 0 sigAt
  ensure (sigOk keys (·.kernel) blk msg) ldSignature 0
  ensure (decide (counter ≤ nbits w0 31 16)) ldWithdrawn 0
  let kd := (sectOf xs 5).off
  let k0 ← rd.word kd
  let k1 ← rd.word (kd + 8)
  let k2 ← rd.word (kd + 16)
  let k3 ← rd.word (kd + 24)
  let l16 := nbits w0 39 39 == 1
  checkKdesc l16 k0 k1 k2 k3
  let code ← readWords rd (sectOf xs 1).off ((sectOf xs 1).size / 8)
  let nent := (sectOf xs 2).size / 16
  let entries ← readEntries rd (sectOf xs 2).off nent
  checkEntries rd xs code entries nent 0
  let consts ← rd.bytes (sectOf xs 3).off (sectOf xs 3).size
  let idemWords ← readWords rd (sectOf xs 6).off ((sectOf xs 6).size / 8)
  let k : Kernel :=
    { ver := ver, l16 := l16, cosched := nbits w0 38 38 == 1, secver := nbits w0 31 16, code := code, entries := entries,
      bx := nbits k0 15 0, bY := nbits k0 31 16, bz := nbits k0 47 32, scratch := nbits k1 31 0, tiles := nbits k1 39 32,
      lentry := nbits k2 15 0, constlen := nbits k3 31 0, consts := consts, hasData := xs.any (·.ty == 4) }
  let idem ← checkIdem k nent (idemWords.map fun w => (nbits w.toNat 31 0, nbits w.toNat 63 32)) []
  ensure (match entries[k.lentry]? with | some e => e.kind == 0 | none => false) ldEntry k.lentry
  match (List.range nent).find? fun i => i != k.lentry && (entries[i]?).any (·.kind == 0) with
  | some i => .error (ldEntry, i)
  | none =>
    let k := { k with idem := idem }
    checkCode k handler
    .ok k

/-- Where the CONST section starts, of an object whose sections are good. -/
def constSect (rd : Reader) : Option Nat :=
  match (do
    let w1 ← rd.word 8
    let xs ← checkSections rd (nbits w1 63 32) w1
    .ok (sectOf xs 3).off) with
  | .ok n => some n
  | .error _ => none

/-- The key of a translation (R328): the object bytes from offset 0 to the SIG section's OFFSET. -/
def signedBytes (rd : Reader) : Option (List Byte) :=
  match (do
    let w1 ← rd.word 8
    let xs ← checkSections rd (nbits w1 63 32) w1
    rd.bytes 0 (sectOf xs 8).off) with
  | .ok b => some b
  | .error _ => none

end Sys2Proof.Machine
end

