-- ==== Sys2Proof/Machine/Names.lean ====
section
/-! DEFINITION. The home of a named line: counts, the pin log, lookup and allocation, the frames of a pool, and the reclaim
engine (R271 to R282, R286, R298). -/

namespace Sys2Proof.Machine

/-- Whether a name is a leaf or node name, the names that are counted (R278). -/
def nameReal (n : Name) : Bool := decide (nameKind n ≤ 1)

/-- Replace the line of a name. -/
def Domain.setLine (d : Domain) (l : Line) : Domain :=
  { d with lines := d.lines.map fun x => if x.name == l.name then l else x }

/-- The 16 child names of a node line's bytes (R276). -/
def childNames (bs : List MByte) : List Name := (List.range 16).map (childName bs)

/-! ### Counts (R278 to R280) -/

/-- Add 1 to a count; at 2^32 - 1 it saturates. -/
def Line.inc (l : Line) : Line :=
  if l.immortal then l else { l with count := l.count + 1, immortal := decide (l.count + 1 = 4294967295) }

/-- Add 1 to the count of a leaf or node name. -/
def Domain.inc (d : Domain) (n : Name) : Domain :=
  match d.find n with
  | some l => d.setLine l.inc
  | none => d

/-- Subtract 1 from the count of a name: at 0 the line is freed, and a node's children go to the reclaim engine (R279). -/
def Domain.dec (d : Domain) (n : Name) : Domain :=
  match d.find n with
  | none => d
  | some l =>
    if l.immortal then d
    else if 1 < l.count then d.setLine { l with count := l.count - 1 }
    else
      { d with
        lines := d.lines.filter fun x => x.name != n,
        reclaim := if nameKind n = 1 then d.reclaim ++ (childNames l.bytes).filter nameReal else d.reclaim }

/-- Add or subtract 1 on a counted name of a domain. -/
def State.incName (s : State) (dom : Nat) (n : Name) : State := if nameReal n then s.modDomain dom fun d => d.inc n else s
def State.decName (s : State) (dom : Nat) (n : Name) : State := if nameReal n then s.modDomain dom fun d => d.dec n else s

/-! ### The pin log (R272, R281) -/

/-- The pins a context holds on a name of a domain. -/
def Ctx.pinsOn (c : Ctx) (dom : Nat) (n : Name) : Nat :=
  match c.pins.find? fun p => p.name == n && p.dom == dom with
  | some p => p.count
  | none => 0

/-- Whether the pin log can take one more pin on a name. -/
def Ctx.canPin (c : Ctx) (dom : Nat) (n : Name) : Bool :=
  if c.pinsOn dom n = 0 then decide (c.pins.length < c.field 29 31 0) else decide (c.pinsOn dom n < 4294967295)

/-- Note one more pin. The log stands in `Ctx.pins`: the spec gives no layout of its 24 bytes, and nothing is written at PINLOG (DESIGN
CHOICE, log entry 93). -/
def Ctx.addPin (c : Ctx) (dom : Nat) (n : Name) : Ctx :=
  if c.pinsOn dom n = 0 then { c with pins := (c.pins.filter fun p => !(p.name == n && p.dom == dom)) ++ [⟨n, dom, 1⟩] }
  else { c with pins := c.pins.map fun p => if p.name == n && p.dom == dom then { p with count := p.count + 1 } else p }

/-- Note one pin less; an entry that holds none leaves the log. -/
def Ctx.dropPin (c : Ctx) (dom : Nat) (n : Name) : Ctx :=
  { c with pins := (c.pins.map fun p =>
      if p.name == n && p.dom == dom then { p with count := p.count - 1 } else p).filter fun p => p.count != 0 }

/-- A context pins a leaf or node name (R278): false where the log is full. Other names need no pin. -/
def State.pin (s : State) (ctx dom : Nat) (n : Name) : Bool × State :=
  if !nameReal n then (true, s)
  else if (s.ctx ctx).canPin dom n then (true, (s.modCtx ctx fun c => c.addPin dom n).incName dom n)
  else (false, s)

/-- A context releases one pin, if it holds one on the name. -/
def State.unpin (s : State) (ctx dom : Nat) (n : Name) : State :=
  if nameReal n && decide (0 < (s.ctx ctx).pinsOn dom n) then (s.modCtx ctx fun c => c.dropPin dom n).decName dom n else s

/-! ### Pools (R271, R273, R160) -/

/-- The home stack of a name (R273). -/
def nameStack (n : Name) : Nat := n.toNat % 8

/-- The lines that a 2 MiB frame offers on a stack, by the MODE of its frame group (R160; DEDUCED, log entry 21). -/
def State.frameLines (s : State) (frame stack : Nat) : Nat :=
  let i := frame / 0x200000 % 8
  match ((Tab.find? s.frames (frameGroup frame)).getD 0).toNat % 4 with
  | 0 => 1024
  | 1 => if i / 2 = stack / 2 then 4096 else 0
  | 2 => if i = stack then 8192 else 0
  | _ => 0

/-- The free lines of a domain's pool on a stack. -/
def State.freeOn (s : State) (dom stack : Nat) : Nat :=
  let d := s.domain dom
  (d.frames.foldl (fun n f => n + s.frameLines f stack) 0) - (d.lines.filter fun l => nameStack l.name == stack).length

/-- The free lines of a pool on all stacks (R296). -/
def State.freeLines (s : State) (dom : Nat) : Nat := (List.range 8).foldl (fun n k => n + s.freeOn dom k) 0

/-! ### Lookup (R282) -/

/-- The name of kind `k`, ordinal `o` and hash `h` (R274). -/
def mkName (k o h : Nat) : Name := BitVec.ofNat 128 (k * 2 ^ 124 + o * 2 ^ 120 + h)

/-- The answer of a lookup. -/
inductive Found
  | found (n : Name)
  | absent (n : Name)
  | exhausted
  deriving DecidableEq, Repr

/-- The loop of R282 over ordinals from `o` on; `free` is the first free ordinal met. With VERIFY clear an allocated line is found
whether or not it is poisoned, as the rule's pseudocode has it (DEDUCED, log entry 80). -/
def Domain.scan (d : Domain) (k h : Nat) (x : List Byte) : Nat → Nat → Option Nat → Found
  | 0, _, none => .exhausted
  | 0, _, some o => .absent (mkName k o h)
  | fuel + 1, o, free =>
    let n := mkName k o h
    match d.find n with
    | some l =>
      if !d.verify || (l.bytes.map (·.val) == x && !anyPoison l.bytes) then .found n
      else d.scan k h x fuel (o + 1) free
    | none => d.scan k h x fuel (o + 1) (free.or (some o))

/-- The lookup of a line of kind `k` in a domain (R282). -/
def Domain.lookup (d : Domain) (x : List Byte) (k : Nat) : Found := d.scan k (lineHash d.key x k) x 16 0 none

/-- Allocate a line with count 1, and count its children (R278, R286). -/
def State.allocLine (s : State) (dom : Nat) (n : Name) (bs : List MByte) : State :=
  let s := s.modDomain dom fun d => { d with lines := d.lines ++ [{ name := n, bytes := bs, count := 1, immortal := false }] }
  if nameKind n = 1 then (childNames bs).foldl (fun s c => s.incName dom c) s else s

/-! ### Reclaim (R279) -/

/-- The pending decrements of every domain, by domain and place (R279). -/
def State.pendingDecs (s : State) : List (Nat × Nat) :=
  s.domains.flatMap fun (i, d) => (List.range d.reclaim.length).map fun j => (i, j)

/-- RECLAIM (R279): the pending decrement numbered `k`, reduced to those of any domain and home that are pending, is made. -/
def execReclaim (k : Nat) (s : State) : Host.Outcome State Fault Refusal :=
  match s.pendingDecs[k % max 1 s.pendingDecs.length]? with
  | none => .next s
  | some (i, j) =>
    match (s.domain i).reclaim[j]? with
    | none => .next s
    | some n => .next (s.modDomain i fun d => { d with reclaim := d.reclaim.eraseIdx j }.dec n)

end Sys2Proof.Machine
end

