-- ==== Sys2Proof/Machine/Ops.lean ====
section
/-! DEFINITION. The named operations over registers, lanes and groups that the meanings share: reading and writing
registers, the active lanes, completing an instruction, aborting a region, taking a fault and returning from it,
unwinding the reconvergence stack, and retiring groups. -/

namespace Sys2Proof.Machine

/-- The outcome of an instruction or event. -/
abbrev Out := Host.Outcome State Fault Refusal

/-! ### Registers (R35) -/

/-- The lanes of a mask, in ascending order. -/
def lanesOf (m : Mask) : List Nat := (List.range 32).filter fun l => m.getLsbD l

/-- The mask of one lane. -/
def laneBit (l : Nat) : Mask := 1#32 <<< l

/-- A vector register in a lane; v16383 reads zero. -/
def Regs.vec (r : Regs) (i l : Nat) : Word := if i = 16383 then 0 else Tab.get 0 r.v (32 * i + l)

/-- A vector pair in a lane: the register of the index holds bits 31:0; 16383 reads zero. -/
def Regs.vec64 (r : Regs) (i l : Nat) : DWord := if i = 16383 then 0 else r.vec (i + 1) l ++ r.vec i l

/-- A scalar register; s16383 reads zero. -/
def Regs.scal (r : Regs) (i : Nat) : DWord := if i = 16383 then 0 else Tab.get 0 r.s i

/-- A predicate over the lanes; p15 reads true. -/
def Regs.pred (r : Regs) (i : Nat) : Mask := if i = 15 then 0xFFFFFFFF else Tab.get 0 r.p i

/-- Write a vector register in one lane. -/
def Regs.setVec (r : Regs) (i l : Nat) (x : Word) : Regs :=
  if i = 16383 then r else { r with v := r.v.put (32 * i + l) x }

/-- Write a vector pair in one lane. -/
def Regs.setVec64 (r : Regs) (i l : Nat) (x : DWord) : Regs :=
  if i = 16383 then r else (r.setVec i l (x.setWidth 32)).setVec (i + 1) l (x.extractLsb' 32 32)

/-- Write a scalar register. -/
def Regs.setScal (r : Regs) (i : Nat) (x : DWord) : Regs := if i = 16383 then r else { r with s := r.s.put i x }

/-- Write a predicate in the lanes of a mask. -/
def Regs.setPred (r : Regs) (i : Nat) (act val : Mask) : Regs :=
  if i = 15 then r else { r with p := r.p.put i ((Tab.get 0 r.p i &&& ~~~act) ||| (val &&& act)) }

/-- Write a vector register in the lanes of a mask, from a function of the lane (R10, R59). -/
def Regs.putVec (r : Regs) (i : Nat) (act : Mask) (f : Nat → Word) : Regs :=
  (lanesOf act).foldl (fun r l => r.setVec i l (f l)) r

/-- Write a vector pair in the lanes of a mask. -/
def Regs.putVec64 (r : Regs) (i : Nat) (act : Mask) (f : Nat → DWord) : Regs :=
  (lanesOf act).foldl (fun r l => r.setVec64 i l (f l)) r

/-- The mask of the lanes for which a function is true. -/
def maskOf (f : Nat → Bool) : Mask := (List.range 32).foldl (fun m l => if f l then m ||| laneBit l else m) 0

/-! ### The executing group -/

/-- The executing group. -/
def State.grp (s : State) : Group := s.group s.cur

/-- Replace the executing group. -/
def State.setGrp (s : State) (x : Group) : State := s.setGroup s.cur x

/-- The executing thread: the group's, or its handler's. -/
def State.th (s : State) : Thread := s.grp.th

/-- Replace the executing thread. -/
def State.setTh (s : State) (t : Thread) : State := s.setGrp { s.grp with th := t }

/-- Replace the executing thread's registers. -/
def State.setRegs (s : State) (r : Regs) : State := s.setTh { s.th with regs := r }

/-- The interrupted thread while a handler runs, else the group's own (R335). -/
def Group.outer (x : Group) : Thread :=
  match x.hnd with
  | some h => h.outer
  | none => x.th

/-- Replace the interrupted thread, or the group's own. -/
def Group.setOuter (x : Group) (t : Thread) : Group :=
  match x.hnd with
  | some h => { x with hnd := some { h with outer := t } }
  | none => { x with th := t }

/-- The kernel whose code a group runs: its launch's, or the handler object. -/
def State.kernelOf (s : State) (x : Group) : Kernel :=
  match x.hnd with
  | some h => h.kernel
  | none => (s.launch (s.block x.block).launch).kernel

/-- Group width W: 32, or 16 in legacy width. -/
def Group.width (x : Group) : Nat := if x.l16 then 16 else 32

/-- All lanes of a group's width. -/
def Group.allLanes (x : Group) : Mask := if x.l16 then 0xFFFF else 0xFFFFFFFF

/-- The lanes beyond a group's width, and the absent lanes of a block's last group: those past the next multiple of 4
after the last block lane (R104). -/
def State.absentOf (s : State) (x : Group) : Mask :=
  let k := (s.launch (s.block x.block).launch).kernel
  let n := (k.bx * k.bY * k.bz + 3) / 4 * 4
  maskOf fun l => decide (x.width ≤ l) || (decide (x.grpid < 32) && decide (n ≤ x.width * x.grpid + l))

/-- The lanes whose guard is true (R44). -/
def Regs.guardMask (r : Regs) (g : Guard) : Mask :=
  if g.reg == 15 then 0xFFFFFFFF else if g.neg then ~~~ r.pred g.reg.toNat else r.pred g.reg.toNat

/-- The active lanes of an instruction (R7). -/
def Thread.act (t : Thread) (g : Guard) : Mask := t.exec &&& t.live &&& t.regs.guardMask g

/-- Length in bytes of an instruction, by its X bit (R30). -/
def ilen (ext : Bool) : Nat := if ext then 16 else 8

/-- Add to a profile counter, saturating (R349). -/
def Group.count (x : Group) (i n : Nat) : Group := { x with perf := countUp x.perf i n }

/-- Note that timing may add up to `n` to a profile counter, or, for counters 3, 7 and 8, any number of cycles or misses: at its next
read (R349; DESIGN CHOICE, log entry 14). A handler's events count for none. -/
def Group.owe (x : Group) (i n : Nat) : Group := if x.hnd.isSome || n = 0 then x else x.count (16 + i) n

/-- Whether counter 3 counts the cycles of a wait (R349). -/
def Wait.counted : Wait → Bool
  | .barrier _ _ _ _ | .waitc _ | .yieldc _ _ | .yield | .qpop _ _ _ _ _ | .watermark _ => true
  | _ => false

/-- Count a completed virtual instruction and the passes it issued; a handler's are not counted (R101, R349). -/
def Group.completed (x : Group) : Group :=
  if x.hnd.isSome then x
  else if x.passes = 0 then x.count 0 1 else (x.count 0 1).count 1 x.passes

/-- Move the executing group to a byte offset, its instruction complete. -/
def State.jump (s : State) (pc : Nat) : State :=
  let x := s.grp
  s.setGrp { x.completed with th := { x.th with pc := pc } }

/-- Complete the executing group's instruction of `n` bytes: the group goes on at the next word. -/
def State.advance (s : State) (n : Nat) : State := s.jump (s.th.pc + n)

/-- Perform an instruction with guard `g` and `n` bytes: with no active lane only the PC moves (R8); else `k` acts on
the active lanes and completes. -/
def State.perform (s : State) (g : Guard) (n : Nat) (k : Mask → State → State) : Out :=
  if s.th.act g = 0 then .next (s.advance n) else .next (k (s.th.act g) s)

/-- Perform an instruction that only changes registers. -/
def State.performRegs (s : State) (g : Guard) (n : Nat) (k : Mask → Thread → Regs) : Out :=
  s.perform g n fun act s => (s.setRegs (k act s.th)).advance n

/-- The group waits and its instruction has not completed. -/
def State.waitHere (s : State) (w : Wait) : State :=
  s.setGrp { (if w.counted then s.grp.owe 3 1 else s.grp) with wait := w }

/-! ### Interrupts and rings (R352, R366) -/

/-- The PCIe function of a context: with SR-IOV, context n belongs to virtual function n + 1 (R369). -/
def State.fnOf (s : State) (ctx : Nat) : Nat := if s.sriov then ctx + 1 else 0

/-- Signal an MSI-X vector of a function: a masked vector keeps its pending bit (R366). -/
def State.signal (s : State) (fn vec : Nat) : State :=
  let k := 128 * fn + vec
  let v := Tab.get {} s.msix k
  { s with msix := s.msix.put k (if v.masked then { v with pending := true } else { v with sent := v.sent + 1 }) }

/-- Append a record to a ring of a context with a 32-byte header (R352): the count of records written, or none when the
record was dropped. -/
def State.ringAppend (s : State) (ctx va cap : Nat) (bs : List Byte) : Option Nat × State :=
  match s.readVirtual ctx va 16 with
  | none => (none, s)
  | some h =>
    let s := s.noteVirtual ctx va 16
    let written := mVal (h.take 8)
    let dropped := mVal (h.drop 8)
    if cap = 0 then (none, (s.writeVirtual ctx (va + 8) (leBytes 8 (dropped + 1))).2)
    else
      let s := (s.writeVirtual ctx (va + 32 + 32 * (written % cap)) bs).2
      (some (written + 1), (s.writeVirtual ctx va (leBytes 8 (written + 1))).2)

/-- Write one fault record to the context's fault log and signal VFAULT (R334, R366). -/
def State.logFault (s : State) (ctx : Nat) (bs : List Byte) : State :=
  let c := s.ctx ctx
  let (r, s) := s.ringAppend ctx (c.word 22).toNat (c.field 23 31 0) bs
  if r.isSome then s.signal (s.fnOf ctx) (c.field 37 5 0) else s

/-- A fault record (R334); its address is that of the 56-bit register (R53). -/
def State.faultRecord (s : State) (g : Nat) (code : Nat) (va : BitVec 64) (nested join : Bool) (vpc lanes func : Nat) :
    List Byte :=
  let x := s.group g
  let b := s.block x.block
  leBytes 8 (code + (if nested then 0x100 else 0) + (if join then 0x200 else 0) + x.grpid * 0x10000 + vpc * 2 ^ 32)
    ++ leBytes 8 (va.toNat % 2 ^ 56) ++ leBytes 8 (lanes + func * 2 ^ 32) ++ leBytes 8 (b.lin + b.lidCore * 2 ^ 32)

/-! ### Retirement (R132, R133, R195) -/

/-- The barrier key of a scope, instance and number (R191). -/
def barrierKey (scope inst num : Nat) : Nat := (4 * inst + scope) * 16 + num

/-- A member leaves its barriers: it counts as arrived in the current phase, and the next phase expects one less. The
count is kept as the members that remain (R195). What happens before its retirement happens before the phase's completion (R170). -/
def Barrier.leave (b : Barrier) (g : Nat) (known : List Nat) : Barrier :=
  if b.members.contains g then
    { b with members := b.members.filter (· != g),
             arrived := if b.arrived.contains g then b.arrived else b.arrived ++ [g],
             left := b.left ++ known.filter fun m => !b.left.contains m }
  else b

/-- A group retires: it leaves its barriers, its NP is cleared, and a SPAWN group's slot is freed (R132, R143, R147). -/
def State.retireGroup (s : State) (g : Nat) : State :=
  let x := s.group g
  let s := { s with barriers := s.barriers.mapVals fun _ b => b.leave g x.known }
  let s := s.flush g
  let s := s.modGroup g fun x => { x with retired := true, np := false, overrun := false, wait := .none, hnd := none }
  let s := if 32 ≤ x.grpid then s.modCore x.core fun k => { k with pool := k.pool.erase (x.grpid - 32) } else s
  let b := s.block x.block
  if b.st == .resident && b.groups.all fun i => (s.group i).retired then s.modBlock x.block fun b => { b with st := .retiring }
  else s

/-! ### Terminating a grid (R334) -/

/-- Whether a drain pushes element `k` of result queue `q` of block `b` (R257, R260). -/
def EngOp.pushes (o : EngOp) (b q k : Nat) : Bool :=
  o.block == b && match o.kind with
    | .tdrain q' first _ f => q' == q && decide (first ≤ k) && decide (k < first + (f.nrows1.toNat + 1) * (f.ncols1.toNat + 1))
    | _ => false

/-- Drop the engine operations that have not started and that `p` chooses (R334): they leave their channels and array queues, the pops in
flight lose the elements that would have come from them, and an NCOPY releases its pin (DEDUCED, log entry 25). -/
def State.dropOps (s : State) (p : EngOp → Bool) : State :=
  let gone := s.ops.filter fun (_, o) => p o && o.st == OpState.queued
  let s := gone.foldl (fun (s : State) (_, o) =>
    match o.kind with
    | .ncopy _ _ dom name _ _ => s.unpin (s.ctxOfBlock o.block) dom name
    | _ => s) s
  let isGone (i : Nat) : Bool := gone.any fun x => x.1 == i
  let keep (o : EngOp) (q : Nat) : EngOp :=
    { o with todo := o.todo.filter fun x => !(gone.any fun y => y.2.pushes o.block q x.src) }
  { s with
    ops := Tab.mapVals (fun _ o =>
      match o.kind with
      | .qstore q .. => keep o q
      | .qsend q .. => keep o q
      | _ => o) (s.ops.filter fun (i, _) => !isGone i),
    blocks := s.blocks.mapVals fun _ b => { b with
      chans := b.chans.mapVals fun _ c => { c with queue := c.queue.filter fun i => !isGone i } },
    cores := s.cores.mapVals fun _ k => { k with arrayQ := k.arrayQ.filter fun i => !isGone i } }

/-- Whether a barrier's key is one of a launch, of its launch clusters or of its blocks (R191). -/
def State.barrierIn (s : State) (l k : Nat) : Bool :=
  match k / 16 % 4 with
  | 1 => (s.block (k / 64)).launch == l && (Tab.find? s.blocks (k / 64)).isSome
  | 2 => k / 64 / 0x100000000 == l
  | _ => k / 64 == l

/-- Stop every group and block of a launch, whose barriers are freed (R197); engine operations that have not started are dropped. The
launch finishes with LAUNCH_FAULT when its engine operations in flight have finished (GRID_COMPLETE). -/
def State.stopGrid (s : State) (l status : Nat) : State :=
  let mine (b : Nat) : Bool := (s.block b).launch == l
  let s' := { s with
    groups := s.groups.mapVals fun _ x =>
      if mine x.block then { x with retired := true, wait := .none, np := false, gated := [], hnd := none } else x,
    blocks := s.blocks.mapVals fun b x => if mine b && x.st != BlockState.retired then { x with st := .retiring } else x,
    barriers := s.barriers.filter fun (k, _) => !s.barrierIn l k,
    cores := s.cores.mapVals fun _ k => { k with
      pool := k.pool.filter fun (_, g) => !mine (s.group g).block,
      stall := k.stall.filter fun g => !mine (s.group g).block,
      arrayQ := k.arrayQ.filter fun o => !mine (s.op o).block } }
  (s'.dropOps fun o => mine o.block).modLaunch l fun x => { x with aborted := true, status := status }

/-! ### Regions: aborts and rollback (R303 to R313) -/

/-- A frame without some lanes: they leave the caller's mask and the calls of a CALLX still to make (R139, R305). -/
def Frame.without (f : Frame) (lanes : Mask) : Frame :=
  { f with exec := f.exec &&& ~~~lanes, more := f.more.map fun (w, m) => (w, m &&& ~~~lanes) }

/-- Remove lanes from every mask above the try entry, the caller masks of frames included (R305). -/
def dropAbove (lanes : Mask) : List Entry → List Entry
  | [] => []
  | .tryE t :: r => .tryE t :: r
  | .join p m :: r => .join p (m &&& ~~~lanes) :: dropAbove lanes r
  | .pending p m a :: r => .pending p (m &&& ~~~lanes) a :: dropAbove lanes r
  | .frame f :: r => .frame (f.without lanes) :: dropAbove lanes r

/-- The stack below and at the try entry: the target, and the entries under it. -/
def belowTry : List Entry → Option (Nat × List Entry)
  | [] => none
  | .tryE t :: r => some (t, r)
  | _ :: r => belowTry r

/-- Replace the try entry, wherever it stands: by a pending entry for the aborted lanes, or by nothing (R305). -/
def closeTry (am : Mask) (pend : Bool) : List Entry → List Entry
  | [] => []
  | .tryE t :: r => if pend then .pending t am true :: r else r
  | e :: r => e :: closeTry am pend r

/-- Apply a change to the registers of the TRY's function: the thread's own, or those that the lowest frame above the
try entry saved (R310). -/
def regsAtTry (f : Regs → Regs) : List Entry → Option (List Entry)
  | [] => none
  | .tryE _ :: _ => none
  | .frame x :: r =>
    match regsAtTry f r with
    | some r' => some (.frame x :: r')
    | none => some (.frame { x with regs := f x.regs } :: r)
  | e :: r => (regsAtTry f r).map fun r' => e :: r'

/-- The registers that the lowest frame above the try entry saved, if there is one. -/
def savedAtTry : List Entry → Option Regs
  | [] => none
  | .tryE _ :: _ => none
  | .frame x :: r => (savedAtTry r).or (some x.regs)
  | _ :: r => savedAtTry r

/-- Restore vectors and predicates of some lanes, and the scalars when `all`, from a checkpoint (R310). -/
def Regs.rollback (now ck : Regs) (lanes : Mask) (all : Bool) : Regs :=
  let keep (k : Nat) : Bool := !lanes.getLsbD (k % 32)
  let cleared := now.v.filter fun (k, _) => keep k
  { v := ck.v.foldr (fun (k, x) t => if keep k then t else t.put k x) cleared,
    s := if all then ck.s else now.s,
    p := (List.range 15).foldl (fun t i =>
      let x := (Tab.get 0 now.p i &&& ~~~lanes) ||| (Tab.get 0 ck.p i &&& lanes)
      if (now.p.find? i).isSome || (ck.p.find? i).isSome then t.put i x else t) [] }

/-- Discard the buffered bytes and read-set bits of lanes, freeing entries left with no lane (R306). -/
def Region.forget (r : Region) (lanes : Mask) : Region :=
  { r with
    buffer := r.buffer.filter fun b => !lanes.getLsbD b.lane,
    reads := (r.reads.map fun e => { e with mask := e.mask &&& ~~~lanes }).filter fun e => e.mask != 0 }

/-- The CODE of the lowest-numbered lane of a strand, for `abortc` (R311). -/
def Region.codeOf (r : Region) (m : Mask) : Half :=
  match lanesOf m with
  | [] => 0
  | l :: _ => Tab.get 0 r.code l

/-- Close a region: DEPTH := 0, RM empty, store buffer and read set empty (R312). MODE stays (DEDUCED, log entry 10). -/
def Region.close (r : Region) : Region := { r with depth := 0, rm := 0, buffer := [], reads := [] }

/-- Abort lanes of a group's region with a code for each (R305, R308, R310). In group mode every lane of RM aborts.
A cause that names no lane of RM has no effect. One call is one cause (R349). Group mode goes on at the abort target, with the
rejoin charge when `exec` widens (R322). -/
def Group.abortWith (x : Group) (named : Mask) (code : Nat → Half) (allRm : Bool) : Group :=
  let r := x.region
  let lanes := if (r.mode || allRm) && named &&& r.rm != 0 then r.rm else named &&& r.rm
  if lanes = 0 then x
  else
    let x := x.count 9 1
    let r := { r with code := (lanesOf lanes).foldl (fun t l => t.put l (code l)) r.code }
    let t := x.outer
    let all := !r.anyc && lanes == (r.entry &&& ~~~t.ended)
    let back (g : Regs) : Regs := g.rollback r.ckRegs lanes all
    let x := if all then { x with stkptr := r.ckPtr } else x
    if r.mode then
      match belowTry t.stack with
      | none => { x with region := r.close }
      | some (target, below) =>
        let m := r.entry &&& t.live &&& ~~~t.ended
        let regs := back ((savedAtTry t.stack).getD t.regs)
        let t := { t with pc := target, body := r.ckBody, depth := r.ckDepth, regs := regs, exec := m, strand := m,
                          stack := below }
        { (x.setOuter t) with abortc := r.codeOf m, region := { r.close with am := r.am ||| lanes }, wait := .none,
                              charge := x.charge || m &&& ~~~x.outer.exec != 0 }
    else
      let r := { r.forget lanes with rm := r.rm &&& ~~~lanes, am := r.am ||| lanes }
      let t := { t with exec := t.exec &&& ~~~lanes, strand := t.strand &&& ~~~lanes }
      let t := match regsAtTry back t.stack with
        | some st => { t with stack := dropAbove lanes st }
        | none => { t with stack := dropAbove lanes t.stack, regs := back t.regs }
      { (x.setOuter t) with region := r }

/-- Abort every lane of RM with one code: PREEMPT, UNSUPPORTED, NESTING (R308). -/
def Group.abortAll (x : Group) (code : Half) : Group := x.abortWith x.region.rm (fun _ => code) true

/-- Abort codes (R308). -/
def abConflict : Half := 1
def abAlias : Half := 2
def abOverflow : Half := 3
def abFault (code : Nat) : Half := BitVec.ofNat 16 (4 + 256 * code)
def abPreempt : Half := 5
def abUnsupported : Half := 6
def abExplicit (code : Nat) : Half := BitVec.ofNat 16 (7 + 256 * code)
def abNesting : Half := 8
def abUe : Half := 9

/-- RM as the executing lanes see it: empty outside a region, and in a handler, whose own lane is no lane of it. -/
def Group.rm (x : Group) : Mask := if x.region.depth = 0 || x.hnd.isSome then 0 else x.region.rm

/-- Whether an instruction marked UNSUPPORTED in R307 meets an open region: some active lane is in RM. -/
def Group.inRegion (x : Group) (act : Mask) : Bool := act &&& x.rm != 0

/-- Perform an instruction that R307 marks UNSUPPORTED inside a region. The instruction performs nothing when it
aborts; when no lane is left it completes at the region's unwinding. It is a commit point either way, if `point` (R323). -/
def State.orUnsupported (s : State) (act : Mask) (k : State → State) (point : Bool := true) : State :=
  if s.grp.inRegion act then
    let s := if point then s.flush s.cur else s
    s.setGrp (s.grp.abortAll abUnsupported)
  else k s

/-! ### Taking a fault (R331 to R337) -/

/-- What the handler table makes of a fault (R333). -/
inductive Action
  | abort
  | cont
  | handler (k : Kernel) (woff : Nat)
  deriving DecidableEq, Repr

/-- The handler object of a context (R335), read through its address space and checked by R50 and R336, for a launch: by the keys and the
kernel counter that the launch's own object was checked by, so that a grid already running continues (R391; DEDUCED, log entry 82). -/
def State.handlerObject (s : State) (ctx l : Nat) : Option Kernel :=
  let at_ := ((s.ctx ctx).word 21).toNat
  let (keys, counter) := (s.launch l).checkedBy.getD (s.keys, s.kernelCounter)
  if at_ = 0 then none
  else match loadObject (fun off n => (s.readVirtual ctx (at_ + off) n).map fun bs => bs.map (·.val)) keys counter true with
    | .ok k => some k
    | .error _ => none

/-- The read of the handler object, counted where its group is not live (R161). -/
def State.noteHandler (s : State) (ctx : Nat) : State :=
  let at_ := ((s.ctx ctx).word 21).toNat
  let len := match s.readVirtual ctx (at_ + 12) 4 with | some bs => mVal bs | none => 0
  if at_ = 0 || !s.anyNonLive then s else s.noteVirtual ctx at_ (max 16 len)

/-- The action of a fault code for a group, by its context's table (R333). -/
def State.action (s : State) (g code : Nat) : Action :=
  let ctx := s.ctxOf g
  let e := (s.ctx ctx).field (5 + code / 2) (32 * (code % 2) + 31) (32 * (code % 2))
  if nbits e 15 2 != 0 then .abort
  else
    let mode := nbits e 1 0
    if mode = 0 then (if code = fcUncorrectable then .cont else .abort)
    else if mode = 1 then .abort
    else if mode = 3 then
      (if code = fcUncorrectable || code = fcBreakpoint || code = fcNopreemptOverrun then .cont else .abort)
    else match s.handlerObject ctx (s.block (s.group g).block).launch with
      | none => .abort
      | some k =>
        match k.entries[nbits e 31 16]? with
        | some r => if r.kind == 1 then .handler k r.woff else .abort
        | none => .abort

/-- What the 56-bit register `faultva` holds of an address or value (R53; log entry 51). -/
def vaReg (va : BitVec 64) : BitVec 64 := va &&& 0x00FFFFFFFFFFFFFF

/-- Terminate the grid of a group with its fault record (R334); `nested` for a fault in its handler. -/
def State.abortGrid (s : State) (g : Nat) (f : FaultInfo) (nested : Bool) : State :=
  let x := s.group g
  let b := s.block x.block
  let k := (s.launch b.launch).kernel
  let seen := match x.hnd with | some h => if nested then h.fault else f | none => f
  let func := k.funcIndex x.outer.body
  let rec_ := s.faultRecord g f.code f.va nested f.join seen.pc seen.lanes.toNat func
  (s.logFault (s.launch b.launch).ctx rec_).stopGrid b.launch 0x51

/-- The handler's thread at entry (R335). -/
def handlerThread (k : Kernel) (woff : Nat) (f : FaultInfo) (func : Nat) : Thread :=
  let r : Regs := {}
  let r := r.setScal 0 (BitVec.ofNat 64 f.code)
  let r := r.setScal 1 f.va
  let r := r.setScal 2 (f.lanes.setWidth 64)
  let r := r.setScal 3 (f.trap.setWidth 64)
  let r := r.setScal 4 (BitVec.ofNat 64 f.pc)
  let r := r.setScal 5 (BitVec.ofNat 64 func)
  { pc := 8 * woff, body := k.bodyOf woff, exec := 1, live := 1, strand := 1, regs := r }

/-- Taking an exception: deliver fault `f` to group `g` by cases 3 and 4 of R331. `faultc` and `faultva` take its code
and address; a handler is entered with the state of R335; CONTINUE goes on where `rte` would; ABORT terminates the grid;
a debugger halts the group: a fault whose action is ABORT in effect, by default or because its entry is not valid, has mode ABORT for that
(DEDUCED, log entry 98). A BKPT under CONTINUE has no effect at all (R333). -/
def State.deliver (s : State) (g : Nat) (f : FaultInfo) : State :=
  let x := s.group g
  let f := { f with va := vaReg f.va }
  if x.hnd.isSome then s.abortGrid g f true
  else
    let ctx := s.ctxOf g
    let act := s.action g f.code
    let s := s.noteHandler ctx
    let t := x.th
    let none_ := act == .cont && f.code == fcBreakpoint && !(s.ctx ctx).debugger
    let x := if none_ then { x with wait := .none }
      else { x with faultc := BitVec.ofNat 8 f.code, faultva := f.va, wait := .none }
    let s := s.setGroup g x
    if (s.ctx ctx).debugger && (f.code == fcBreakpoint || act == .abort) then
      s.setGroup g { x with wait := .halt, th := { t with pc := f.rte } }
    else match act with
      | .abort => s.abortGrid g f false
      | .cont => s.setGroup g { x with th := { t with pc := f.rte } }
      | .handler k woff =>
        let func := (s.kernelOf x).funcIndex t.body
        s.setGroup g { x with
          hnd := some { outer := t, fault := f, kernel := k },
          th := handlerThread k woff f func }

/-- Route a fault by cases 2 to 4 of R331: PAGE_NOT_PRESENT goes first to the page service, and stalls the core (DEDUCED,
log entry 31). -/
def State.route (s : State) (g : Nat) (f : FaultInfo) : State :=
  if f.code = fcPageNotPresent && !f.join then
    let s := s.modGroup g fun x => { x.owe 8 1 with wait := .page f }
    s.modCore (s.group g).core fun k => { k with stall := k.stall ++ [g] }
  else s.deliver g f

/-- Where a group `y` goes on after a fault of group `x` as it was: at `pc`, or at the abort target when the fault has closed
its region in group mode (R310, R331; DEDUCED, log entry 10). -/
def Group.after (y x : Group) (pc : Nat) : Nat := if x.rm != 0 && y.region.depth = 0 then y.th.pc else pc

/-- A fault of the executing instruction of `n` bytes, which performs nothing (R331, R337). `named` are the failing
lanes, each with its fault: their region lanes abort with FAULT, and the fault of the lowest failing lane outside RM is
routed on. Lanes that group mode aborts with them take the fault code of the lowest failing one (DEDUCED, log entry 10).
`lanes` is what a handler finds in s2. -/
def State.raiseLanes (s : State) (n : Nat) (named : Mask) (fault : Nat → Nat × BitVec 64) (lanes : Option Mask)
    (trap : Word) : State :=
  let x := s.grp
  let out := lanesOf (named &&& ~~~x.rm)
  let code (l : Nat) : Nat := (fault (if named.getLsbD l then l else ((lanesOf (named &&& x.rm)).head?).getD 0)).1
  let y := x.abortWith (named &&& x.rm) (fun l => abFault (code l)) false
  let s := s.setGrp y
  match out with
  | [] => s
  | l :: _ =>
    let pc := x.th.pc
    s.route s.cur { code := (fault l).1, va := (fault l).2, lanes := lanes.getD (laneBit l), trap := trap, pc := pc,
                    rte := y.after x pc, skip := y.after x (pc + n), killed := 0, join := false }

/-- A fault of a uniform instruction: it names every active lane, and gives a handler no lane mask (R331, R335). -/
def State.raise (s : State) (n : Nat) (act : Mask) (code : Nat) (va : BitVec 64) : State :=
  s.raiseLanes n act (fun _ => (code, va)) (some 0) 0

/-- TRAP and BKPT: the handler finds the active lanes in s2, and every return goes to the next word (R146, R337). `faultva` is 0:
the spec gives a fault without an address no value of it (DESIGN CHOICE, log entry 53). -/
def State.raiseTrap (s : State) (n : Nat) (act : Mask) (code : Nat) (trap : Word) : State :=
  let pc := s.th.pc
  (s.setGrp s.grp.completed).route s.cur
    { code := code, va := 0, lanes := act, trap := trap, pc := pc, rte := pc + n, skip := pc + n, killed := 0, join := false }

/-- The group's lanes `k` have met an uncorrectable error in an instruction that has completed, or in their registers (R185, R338): their
`live` bits are cleared and UNCORRECTABLE is reported at the instruction that comes next. In an open region those of RM abort with
FAULT, and the fault goes on for the others alone (R331; DEDUCED, log entry 85). -/
def State.kill (s : State) (k : Mask) : State :=
  let x := s.grp
  let f : FaultInfo := { code := fcUncorrectable, va := 0, lanes := k &&& ~~~x.rm, trap := 0, pc := x.th.pc, rte := x.th.pc,
                         skip := x.th.pc, killed := k, join := false }
  if x.hnd.isSome then s.deliver s.cur f
  else
    let x := { x with th := { x.th with live := x.th.live &&& ~~~k } }
    let y := x.abortWith (k &&& x.rm) (fun _ => abFault fcUncorrectable) false
    let s := s.setGrp y
    if k &&& x.rm != 0 && k &&& ~~~x.rm = 0 then s
    else s.deliver s.cur { f with rte := y.after x x.th.pc, skip := y.after x x.th.pc }

/-- A fault that an engine operation met after issue, delivered at the joining instruction, which is not performed
(R237, R337). -/
def State.raiseJoin (s : State) (code : Nat) (va : BitVec 64) : State :=
  let pc := s.th.pc
  s.route s.cur { code := code, va := va, lanes := 0, trap := 0, pc := pc, rte := pc, skip := pc, killed := 0, join := true }

/-- Return from the handler to a byte offset of the interrupted group; the handler's registers cease to exist (R348). -/
def State.returnTo (s : State) (pc : Nat) : State :=
  match s.grp.hnd with
  | none => s
  | some h =>
    s.setGrp { s.grp with th := { h.outer with pc := pc }, hnd := none }

/-! ### The reconvergence stack (R123, R124, R139, R140) -/

/-- The topmost join entry above the topmost frame entry. -/
def topJoin : List Entry → Option Nat
  | [] => none
  | .join pc _ :: _ => some pc
  | .frame _ :: _ => none
  | _ :: r => topJoin r

/-- The lanes that have executed RET in the current frame. -/
def returnedOf : List Entry → Mask
  | [] => 0
  | .frame f :: _ => f.returned
  | _ :: r => returnedOf r

/-- The callee's registers (R127). What lanes outside the call hold in the argument registers no rule says: they read zero (DESIGN
CHOICE, log entry 54). -/
def calleeRegs (caller : Regs) (g : CallRanges) (lanes : Mask) : Regs :=
  let r : Regs := {}
  let r := (List.range g.na).foldl (fun (r : Regs) i => r.putVec i lanes fun l => caller.vec (g.a + i) l) r
  (List.range g.ns).foldl (fun (r : Regs) i => r.setScal i (caller.scal (g.b + i))) r

/-- Enter a function: push the frame and start the callee with the lanes given (R139). -/
def Thread.enter (t : Thread) (k : Kernel) (f : Frame) (target : Nat) (lanes : Mask) : Thread :=
  { t with pc := 8 * target, body := k.bodyOf target, exec := lanes, strand := lanes, depth := t.depth + 1,
           regs := calleeRegs f.regs f.rng lanes, stack := .frame f :: t.stack }

/-- What was popped to go on: a pending entry, one that starts at an abort target, or a join or frame. -/
inductive Popped
  | pending | aborted | rejoin
  deriving DecidableEq, Repr

/-- The outcome of unwinding: the group goes on, or it retires, or an open region's try entry was popped. -/
inductive Unwound
  | go (t : Thread) (by_ : Popped)
  | retire (t : Thread)
  | closed (t : Thread) (target : Nat)
  deriving DecidableEq, Repr

/-- Unwind the stack when a strand has ended (R124). `k` is the kernel, for the further calls of a CALLX. -/
def unwind (k : Kernel) (t : Thread) : List Entry → Unwound
  | [] => .retire { t with stack := [], exec := 0 }
  | .pending pc m a :: r =>
    let m := m &&& ~~~t.ended &&& ~~~returnedOf r
    if m &&& t.live != 0 then
      .go { t with pc := pc, exec := m, strand := m, stack := r } (if a then .aborted else .pending)
    else unwind k t r
  | .join pc m :: r =>
    let m := m &&& ~~~t.ended &&& ~~~returnedOf r
    if m &&& t.live != 0 then .go { t with pc := pc, exec := m, strand := m, stack := r } .rejoin else unwind k t r
  | .tryE target :: r => .closed { t with stack := r, exec := 0 } target
  | .frame f :: r =>
    let back := { t with pc := f.ret, body := f.body, exec := f.exec &&& ~~~t.ended, strand := f.exec &&& ~~~t.ended,
                         regs := f.regs, depth := t.depth - 1, stack := r }
    match f.more with
    | [] => .go back .rejoin
    | (target, lanes) :: more =>
      .go (back.enter k { f with more := more, returned := 0 } target (lanes &&& f.exec &&& ~~~t.ended)) .rejoin

/-- Whether a strand ends before the next instruction: PC stands at the topmost join above the topmost frame, or `exec`
holds no live lane that has not ended (R124). -/
def Thread.strandEnds (t : Thread) : Bool :=
  topJoin t.stack == some t.pc || t.exec &&& t.live &&& ~~~t.ended == 0

/-- Whether a group retires without further instruction: it has no lane, other than a helper lane, that is both live
and not ended (R132, R133). -/
def Thread.spent (t : Thread) : Bool := t.live &&& ~~~t.ended &&& ~~~t.outside == 0

/-- Good lanes of a half (R26). -/
def goodLanes (lmap : BitVec 64) (half : Nat) : Nat :=
  ((List.range 32).filter fun i => lmap.getLsbD (32 * half + i)).length

/-- Passes of a group instruction with every lane active (R26, R101). -/
def passCount (lmap : BitVec 64) (half : Nat) (l16 : Bool) : Nat :=
  if l16 || goodLanes lmap half = 32 then 1 else 2

/-- The pass in which a virtual lane runs on a half with `g` good lanes, and its slot there (R26). -/
def passOf (g lane : Nat) : Nat := lane / max 1 g
def slotOf (g lane : Nat) : Nat := lane % max 1 g

/-- The physical lane of a slot of a half: its good lanes counted upward (R26). -/
def physLane (lmap : BitVec 64) (half slot : Nat) : Nat :=
  (((List.range 32).filter fun i => lmap.getLsbD (32 * half + i))[slot]?).getD 0 + 32 * half

/-- The slot of a virtual lane in the second issue of a redundant context (R383). -/
def secondSlot (g lane : Nat) : Nat := (slotOf g lane + 1) % max 1 g

/-- The window lane of a group's lane 0: 16 for the second group of a legacy pair that issues together with the first, else 0 (R107). -/
def Group.window (x : Group) : Nat := if x.paired then 16 * (x.grpid % 2) else 0

/-- The passes that an instruction with these active lanes issues, lane 0 at window lane `base`: a pass with none is skipped (R26, R107). -/
def passesOf (lmap : BitVec 64) (half base : Nat) (act : Mask) : Nat :=
  ((lanesOf act).foldl (fun (ps : List Nat) l =>
    let p := passOf (goodLanes lmap half) (base + l)
    if ps.contains p then ps else p :: ps) []).length

/-- The rejoin charge of a half (R102). -/
def rejoinCharge (lmap : BitVec 64) (half : Nat) : Nat :=
  if (lmap.toNat / 2 ^ (32 * half)) % 2 ^ 32 = 0xFFFFFFFF then 1 else 2

/-- Spend the rejoin charge when `exec` widens (R102, R150). -/
def State.chargeRejoin (s : State) (g : Nat) (before : Mask) : State :=
  let x := s.group g
  if x.th.exec &&& ~~~before != 0 then s.setGroup g (x.count 4 (rejoinCharge (s.core x.core).lmap x.half)) else s

end Sys2Proof.Machine
end

