-- ==== Sys2Proof/Machine/Operands.lean ====
section
/-! DEFINITION. Every operand form: registers, immediates, broadcasts and constant slots (R31, R32, R35, R56, R57), and
effective addresses (R40). -/

namespace Sys2Proof.Machine

/-- A byte of the launch's constant bank; bytes at or beyond CONSTLEN read zero (R31, R183). -/
def constByte (bank : List Byte) (a : Nat) : Byte := (bank[a]?).getD 0

/-- `n` bytes of the constant bank as a number. -/
def constVal (bank : List Byte) (a n : Nat) : Nat := leVal ((List.range n).map fun i => constByte bank (a + i))

/-- The constant bank of the executing group's launch. -/
def State.bank (s : State) : List Byte := (s.launch (s.block s.grp.block).launch).consts

/-- The poisoned offsets of that bank. -/
def State.badBank (s : State) : List Nat := (s.launch (s.block s.grp.block).launch).badConsts

/-- What operands are read from: registers and the constant bank. -/
structure Env where
  regs : Regs
  bank : List Byte

/-- The operands of the executing thread. -/
def State.env (s : State) : Env := { regs := s.th.regs, bank := s.bank }

/-- The low `w` bits of a number. -/
def lowBits (x w : Nat) : Nat := x % 2 ^ w

/-- The two's-complement reading of the low `w` bits. -/
def sext (x w : Nat) : Int := if x % 2 ^ w < 2 ^ (w - 1) then (x % 2 ^ w : Nat) else (x % 2 ^ w : Nat) - (2 ^ w : Nat)

/-- An integer modulo 2^w. -/
def wrap (x : Int) (w : Nat) : Nat := (x % (2 ^ w : Nat)).toNat

/-- A register operand in lane `l`, of `w` bits: a scalar in the uniform form, else a vector register or pair (R43). -/
def Env.reg (e : Env) (i : Nat) (u : Bool) (w l : Nat) : Nat :=
  if u then lowBits (e.regs.scal i).toNat w
  else if w = 64 then (e.regs.vec64 i l).toNat
  else lowBits (e.regs.vec i l).toNat w

/-- The raw `w` bits of a B or C operand in lane `l` (R31, R32, R56). An immediate of 14 bits is sign-extended and taken
modulo 2^w; IMM32 is sign-extended for a signed type and zero-extended otherwise. -/
def Env.opnd (e : Env) (o : Opnd) (u sgn : Bool) (w l : Nat) : Nat :=
  match o with
  | .reg i => e.reg i.toNat u w l
  | .imm14 v => wrap v.toInt w
  | .imm32 v => if sgn then wrap v.toInt w else lowBits v.toNat w
  | .scal i => lowBits (e.regs.scal i.toNat).toNat w
  | .slot n => lowBits (constVal e.bank (8 * n.toNat) 8) w

/-- Operand A of an arithmetic entry, of `w` bits. -/
def Env.a (e : Env) (f : Alu) (w l : Nat) : Nat := e.reg f.a.toNat f.u w l

/-- Operand B of an arithmetic entry read as its type. -/
def Env.b (e : Env) (f : Alu) (w l : Nat) : Nat := e.opnd f.b f.u f.ty.signed w l

/-- Operand B read as an unsigned 32-bit value: shift counts, descriptors, lane numbers (R58, R66). -/
def Env.b32 (e : Env) (f : Alu) (l : Nat) : Nat := e.opnd f.b f.u false 32 l

/-- Operand C of an arithmetic entry. -/
def Env.c (e : Env) (f : Alu) (w l : Nat) : Nat := e.opnd f.c f.u f.ty.signed w l

/-- Write a vector result of `w` bits in the active lanes: a pair for 64 bits, else bits 31:0 of a value. -/
def Regs.putLanes (r : Regs) (d : Nat) (w : Nat) (act : Mask) (f : Nat → Nat) : Regs :=
  if w = 64 then r.putVec64 d act fun l => BitVec.ofNat 64 (f l)
  else r.putVec d act fun l => BitVec.ofNat 32 (f l)

/-- Perform an arithmetic entry whose result is `f` of the operands and the lane, already filled to the register
width: 32 or 64 bits in a vector register (R57, R59), 64 bits in a scalar register (R43). -/
def State.performAlu (s : State) (a : Alu) (w : Nat) (f : Env → Nat → Nat) : Out :=
  let e := s.env
  s.performRegs a.guard (ilen a.ext) fun act t =>
    if a.u then t.regs.setScal a.d.toNat (BitVec.ofNat 64 (f e 0))
    else t.regs.putLanes a.d.toNat w act fun l => f e l

/-- Perform an entry whose result is a predicate, or a scalar register of 1 or 0 in the uniform form (R62, R88). -/
def State.performPred (s : State) (a : Alu) (f : Env → Nat → Bool) : Out :=
  let e := s.env
  s.performRegs a.guard (ilen a.ext) fun act t =>
    if a.u then t.regs.setScal a.d.toNat (if f e 0 then 1 else 0)
    else t.regs.setPred a.d.toNat act (maskOf fun l => f e l)

/-- A uniform operand that is a scalar register, an immediate or a slot, of `w` bits, unsigned (R142, R347, R349). -/
def Env.uval (e : Env) (o : Opnd) (w : Nat) : Nat := e.opnd o true false w 0

/-- The effective address of lane `l` (R40, R182): `vb` takes a vector base, a pair where `pair` holds. -/
def Env.ea (e : Env) (base : Idx) (vb pair : Bool) (f : AddrForm) (l : Nat) : Nat :=
  let b := if vb then (if pair then (e.regs.vec64 base.toNat l).toNat else (e.regs.vec base.toNat l).toNat)
    else (e.regs.scal base.toNat).toNat
  match f with
  | .vec i sc off => wrap ((b : Int) + ((e.regs.vec i.toNat l).toNat * 2 ^ sc.toNat : Nat) + off.toInt) 64
  | .scal i sc off => wrap ((b : Int) + ((e.regs.scal i.toNat).toNat * 2 ^ sc.toNat : Nat) + off.toInt) 64
  | .off14 v => wrap ((b : Int) + v.toInt) 64
  | .off32 _ v => wrap ((b : Int) + v.toInt) 64

end Sys2Proof.Machine
end

