-- ==== Sys2Proof/Machine/Chan.lean ====
section
/-! DEFINITION. Copy channels: ranges, watermarks and the joins that they make (R210 to R213, R177). -/

namespace Sys2Proof.Machine

/-- A channel of a block. -/
def State.chan (s : State) (b c : Nat) : Channel := Tab.get {} (s.block b).chans c
def State.setChan (s : State) (b c : Nat) (x : Channel) : State := s.modBlock b fun k => { k with chans := k.chans.put c x }
def State.modChan (s : State) (b c : Nat) (f : Channel → Channel) : State := s.setChan b c (f (s.chan b c))

/-- The number of filled granules that run without a gap from `g` upward; `n` bounds the count. -/
def filledFrom (filled : Tab (BitVec 128)) (g : Nat) : Nat → Nat
  | 0 => 0
  | n + 1 => if Tab.get 0 filled g == BitVec.allOnes 128 then filledFrom filled (g + 1) n + 1 else 0

/-- WM (R211). -/
def Channel.wm (c : Channel) : Nat := 128 * filledFrom c.filled 0 (c.len / 128)

/-- The offset in a channel's range of a byte at virtual address or offset `va` and location `loc`, for block `b` on
cluster `cl`. Global ranges are compared by virtual address (R212). -/
def Channel.offset (c : Channel) (b cl va loc : Nat) : Option Nat :=
  let addr : Option Nat :=
    match c.space with
    | .glob => if nearKey loc then none else some va
    | .own => if scratchKey b ≤ loc ∧ loc < scratchKey b + 0x100000000 then some (loc - scratchKey b) else none
    | .bstore => if bstoreKey cl ≤ loc ∧ loc < bstoreKey cl + 0x800000 then some (loc - bstoreKey cl) else none
    | .peer => none
  match addr with
  | some a => if c.base ≤ a ∧ a < c.base + c.len then some (a - c.base) else none
  | none => none

/-- The hardware cluster of a core. -/
def clusterOf (core : Nat) : Nat := core / 4

/-- The channels and offsets that hold an access of `n` bytes (R212); `except` is a channel that does not. -/
def State.blockers (s : State) (b va loc n : Nat) (except : Option Nat) : List (Nat × Nat) :=
  let k := s.block b
  k.chans.foldl (fun acc (c, ch) =>
    if ch.queue.isEmpty || except == some c then acc
    else
      let wm := ch.wm
      acc ++ (List.range n).filterMap fun i =>
        match ch.offset b (clusterOf k.core) (va + i) (loc + i) with
        | some o => if wm ≤ o then some (c, o) else none
        | none => none) []

/-- The part of a write inside a range of locations, and the parts outside. -/
def splitWrite (w : Write) (loc n : Nat) : Option Write × List Write :=
  let e := w.loc + w.bytes.length
  let lo := max w.loc loc
  let hi := min e (loc + n)
  let piece (a b : Nat) : Write :=
    { w with loc := a, bytes := (w.bytes.drop (a - w.loc)).take (b - a), va := w.va + BitVec.ofNat 64 (a - w.loc) }
  if hi ≤ lo then (none, [w])
  else (some (piece lo hi), (if w.loc < lo then [piece w.loc lo] else []) ++ if hi < e then [piece hi e] else [])

/-- Bytes that operations of a channel issued before `i` have written and not joined are superseded there (R214). -/
def State.dropEarlier (s : State) (i loc n : Nat) : State :=
  let e := s.op i
  if e.chan.isNone then s
  else
    { s with ops := s.ops.mapVals fun j o =>
        if j < i && o.block == e.block && o.chan == e.chan then
          { o with wrote := o.wrote.flatMap fun u => (splitWrite u loc n).2 }
        else o }

/-- Operation `i` has written an accumulator at its home: what earlier operations of its channel wrote there does not prevail, nor does
it where it has been joined, by whatever group and under whatever configuration of the channel, and stands unpublished in the view (R214;
DEDUCED, log entry 86). -/
def State.supersede (s : State) (i loc n : Nat) : State :=
  let e := s.op i
  let s := s.dropEarlier i loc n
  match e.chan with
  | none => s
  | some c =>
    let sids := (s.ops.filter fun (j, o) => decide (j < i) && o.block == e.block && o.chan == some c).flatMap fun (_, o) => o.sids
    let gone (st : StoreRec) : Bool := st.seq == 0 && sids.contains st.sid && decide (loc ≤ st.w.loc)
      && decide (st.w.loc + st.w.bytes.length ≤ loc + n)
    s.modCore e.core fun k => { k with
      stores := k.stores.filter fun st => !gone st,
      view := k.view.filter fun (_, v) => !(v.sid != 0 && k.stores.any fun st => st.sid == v.sid && gone st) }

/-- One joined write of operation `i` enters the issuing core's view as a store of the issuing group (R177), and supersedes those of
earlier operations of its channel (R214). -/
def State.enterJoined (s : State) (i : Nat) (w : Write) : State :=
  let e := s.op i
  let sid := s.nextSid
  let s := s.enterStore e.core e.grp w none
  match e.chan with
  | none => s
  | some c =>
    ((s.modOp i fun o => { o with sids := sid :: o.sids }).modChan e.block c fun k => { k with sids := sid :: k.sids }).dropEarlier
      i w.loc w.bytes.length

/-- Join the writes that the operations of channel `c` of block `b` made to `n` bytes at a location (R177, R213). -/
def State.joinBytes (s : State) (b c loc n : Nat) : State :=
  (s.ops.filter fun (_, o) => o.block == b && o.chan == some c).foldl (fun s (i, o) =>
    let parts := o.wrote.map fun w => splitWrite w loc n
    if parts.all fun p => p.1.isNone then s
    else
      let s := (parts.filterMap (·.1)).foldl (fun s w => s.enterJoined i w) s
      s.modOp i fun o => { o with wrote := parts.flatMap (·.2) }) s

/-- The bytes of an access of `n` bytes that lie below a channel's watermark, as first byte and count: they run without a gap
(R213). -/
def Channel.below (ch : Channel) (b cl va loc n : Nat) : Nat × Nat :=
  let is := (List.range n).filter fun i =>
    match ch.offset b cl (va + i) (loc + i) with | some o => decide (o < ch.wm) | none => false
  ((is.head?).getD 0, is.length)

/-- The watermark join of an access of `n` bytes: of those bytes that lie below a watermark (R213). -/
def State.joinBelow (s : State) (b va loc n : Nat) : State :=
  let k := s.block b
  k.chans.foldl (fun s (c, ch) =>
    let (i, m) := ch.below b (clusterOf k.core) va loc n
    if m = 0 then s else s.joinBytes b c (loc + i) m) s

/-- The location and length of a store that a core holds or has published. -/
def State.storeSpan (s : State) (core sid : Nat) : Option (Nat × Nat) :=
  match (s.core core).stores.find? (·.sid == sid) with
  | some st => some (st.w.loc, st.w.bytes.length)
  | none => (s.hist.find? (·.sid == sid)).map fun e => (e.loc, e.bytes.length)

/-- The stores that a read of `n` bytes must see of those below a watermark: the channel's joined writes there (R213). -/
def State.belowSids (s : State) (b va loc n : Nat) : List Nat :=
  let k := s.block b
  k.chans.flatMap fun (_, ch) =>
    let (i, m) := ch.below b (clusterOf k.core) va loc n
    if m = 0 then []
    else ch.sids.filter fun sid =>
      match s.storeSpan k.core sid with | some (a, len) => meets a len (loc + i) m | none => false

/-- Mark bytes of a channel's range as written (R211). -/
def Channel.fillBytes (c : Channel) (b cl va loc n : Nat) : Channel :=
  (List.range n).foldl (fun c i =>
    match c.offset b cl (va + i) (loc + i) with
    | some o =>
      { c with filled := c.filled.put (o / 128) (Tab.get 0 c.filled (o / 128) ||| (1#128 <<< (o % 128))) }
    | none => c) c

end Sys2Proof.Machine
end

