-- ==== Sys2Proof/Machine/Control.lean ====
section
/-! DEFINITION. Control instructions, opcodes 0x60 to 0x6C (R120 to R149). -/

namespace Sys2Proof.Machine

/-- The word of the executing instruction. -/
def Thread.word (t : Thread) : Nat := t.pc / 8

/-- The byte offset that an IMM32 target names (R34). -/
def Thread.target (t : Thread) (imm : BitVec 32) : Nat := 8 * (targetWord t.word imm).toNat

/-- Push the join entry of a divergence, unless the topmost join above the topmost frame has its PC (R123). -/
def pushJoin (j : Option Nat) (exec : Mask) (st : List Entry) : List Entry :=
  match j with
  | none => st
  | some w => if topJoin st == some (8 * w) then st else .join (8 * w) exec :: st

/-- The branch of R123 with one target: `tk` are the lanes that take it. -/
def Thread.branch (t : Thread) (tk : Mask) (target next : Nat) (j : Option Nat) : Thread :=
  let fl := t.exec &&& ~~~tk
  if tk = 0 then { t with pc := next }
  else if fl &&& t.live = 0 then { t with pc := target }
  else { t with stack := .pending target tk false :: pushJoin j t.exec t.stack, exec := fl, strand := fl, pc := next }

/-- Complete an instruction that has moved the thread itself. -/
def State.moveTo (s : State) (t : Thread) : State := s.setGrp { s.grp.completed with th := t }

/-- BRA (R123, R137). -/
def execBra (f : BraOp) (s : State) : Out :=
  s.perform f.guard 16 fun act s =>
    let t := s.th
    s.moveTo (t.branch act (t.target f.target) (t.pc + 16) ((s.kernelOf s.grp).joinOf t.body t.word))

/-- Insert a number into a rising list, once. -/
def insertRising (n : Nat) : List Nat → List Nat
  | [] => [n]
  | m :: t => if n < m then n :: m :: t else if n = m then m :: t else m :: insertRising n t

/-- The distinct values of a function over the lanes of a mask, rising, each with its lanes. -/
def lanesByValue (act : Mask) (f : Nat → Nat) : List (Nat × Mask) :=
  ((lanesOf act).foldl (fun vs l => insertRising (f l) vs) []).map fun v =>
    (v, maskOf fun l => act.getLsbD l && f l == v)

/-- The branch of R138: the fall-through strand runs first, then the targets in ascending order. A dead lane of `exec` stays in
the fall-through strand's `exec` (R124 keeps it there; R138 names live lanes only: DEDUCED, log entry 55). -/
def Thread.branchMany (t : Thread) (act : Mask) (targets : List (Nat × Mask)) (next join : Nat) : Thread :=
  let fl := t.exec &&& ~~~act
  let falls := fl &&& t.live != 0
  match targets with
  | [] => { t with pc := next }
  | (v, m) :: rest =>
    if !falls && rest.isEmpty then { t with pc := v }
    else
      let base := pushJoin (some (join / 8)) t.exec t.stack
      let pend (l : List (Nat × Mask)) : List Entry := l.map fun (v, m) => .pending v m false
      if falls then { t with stack := pend targets ++ base, exec := fl, strand := fl, pc := next }
      else { t with stack := pend rest ++ base, exec := m, strand := m, pc := v }

/-- BRX (R138): a target that is no base word of the body raises ILLEGAL_PC, and its lowest lane is named
(DEDUCED, log entry 34). -/
def execBrx (f : BrxOp) (s : State) : Out :=
  s.perform f.guard 16 fun act s =>
    let t := s.th
    let k := s.kernelOf s.grp
    let tgt (l : Nat) : Nat := (t.regs.vec f.a.toNat l).toNat
    let bad := maskOf fun l => act.getLsbD l && !(tgt l % 8 == 0 && k.inBody t.body (tgt l / 8))
    if bad != 0 then s.raiseLanes 16 bad (fun l => (fcIllegalPc, BitVec.ofNat 64 (tgt l))) none 0
    else s.moveTo (t.branchMany act (lanesByValue act tgt) (t.pc + 16) (t.target f.join))

/-- The register ranges of a call. -/
def callRanges (f : CallOp) : CallRanges :=
  { d := f.d.toNat, nr := f.nr.toNat, a := f.a.toNat, na := f.na.toNat, b := f.b.toNat, ns := f.ns.toNat, c := f.c.toNat,
    nsr := f.nsr.toNat }

/-- Make the calls of a CALL or CALLX: the first now, the rest as each returns (R139). The start of the function's body is a
commit point (R323). A STACK_LIMIT is a fault of the whole call: its lane mask is 0, for the guarded forms too (DEDUCED, log entry
77). -/
def State.callAll (s : State) (f : CallOp) (act : Mask) (calls : List (Nat × Mask)) : State :=
  let t := s.th
  match calls with
  | [] => s.advance 16
  | (w, m) :: more =>
    if 1024 ≤ t.depth then s.raise 16 act fcStackLimit 0  -- no address: `faultva` 0 (DESIGN CHOICE, log entry 53)
    else
      let fr : Frame := { ret := t.pc + 16, exec := t.exec, regs := t.regs, body := t.body, rng := callRanges f, returned := 0,
                          more := more }
      (s.moveTo (t.enter (s.kernelOf s.grp) fr w m)).flush s.cur

/-- CALL (R139). -/
def execCall (f : CallOp) (s : State) : Out :=
  s.perform f.guard 16 fun act s => s.callAll f act [((targetWord s.th.word f.imm).toNat, act)]

/-- CALLX (R139): an index that is not that of a KIND 2 record raises ILLEGAL_PC, and its lowest lane is
named (DEDUCED, log entry 34). -/
def execCallx (f : CallOp) (s : State) : Out :=
  s.perform f.guard 16 fun act s =>
    let t := s.th
    let k := s.kernelOf s.grp
    let idx (l : Nat) : Nat := (t.regs.vec f.imm.toNat l).toNat
    let isFunc (i : Nat) : Bool := match k.entries[i]? with | some e => e.kind == 2 | none => false
    let bad := maskOf fun l => act.getLsbD l && !isFunc (idx l)
    if bad != 0 then s.raiseLanes 16 bad (fun l => (fcIllegalPc, BitVec.ofNat 64 (idx l))) none 0
    else s.callAll f act ((lanesByValue act idx).map fun (i, m) => (((k.entries[i]?).getD ⟨0, 0⟩).woff, m))

/-- Write the results of a RET into the frame's caller registers, and note the lanes returned (R140). -/
def returnInto (callee : Regs) (f : RetOp) (act : Mask) : List Entry → List Entry
  | [] => []
  | .frame fr :: r =>
    let k := min f.nr.toNat fr.rng.nr
    let ks := min f.nsr.toNat fr.rng.nsr
    let regs := (List.range k).foldl (fun (g : Regs) i =>
      g.putVec (fr.rng.d + i) act fun l => callee.vec (f.a.toNat + i) l) fr.regs
    let regs := (List.range ks).foldl (fun (g : Regs) i => g.setScal (fr.rng.c + i) (callee.scal (f.b.toNat + i))) regs
    .frame { fr with regs := regs, returned := fr.returned ||| act } :: r
  | e :: r => e :: returnInto callee f act r

/-- RET (R140). -/
def execRet (f : RetOp) (s : State) : Out :=
  s.perform f.guard (ilen f.ext) fun act s =>
    let t := s.th
    s.moveTo { t with stack := returnInto t.regs f act t.stack, exec := t.exec &&& ~~~act, pc := t.pc + ilen f.ext }

/-- Clear lanes from every mask on the stack (R141). -/
def dropAll (lanes : Mask) (st : List Entry) : List Entry :=
  st.map fun e => match e with
    | .join p m => .join p (m &&& ~~~lanes)
    | .pending p m a => .pending p (m &&& ~~~lanes) a
    | .tryE t => .tryE t
    | .frame f => .frame (f.without lanes)

/-- End lanes of a thread (R141). -/
def Thread.endLanes (t : Thread) (lanes : Mask) : Thread :=
  { t with ended := t.ended ||| lanes, exec := t.exec &&& ~~~lanes, strand := t.strand &&& ~~~lanes,
           stack := dropAll lanes t.stack }

/-- The engine operations that a group issued and that are not finished, and those that are finished and not joined. -/
def State.opsOf (s : State) (g : Nat) : List (Nat × EngOp) := s.ops.filter fun (_, o) => o.grp == g && !o.joined

/-- All engine operations that a group has issued, in issue order. -/
def State.issuedOf (s : State) (g : Nat) : List (Nat × EngOp) := s.ops.filter fun (_, o) => o.grp == g

/-- Join the writes of an operation: they enter the issuing core's view as stores of the issuing group (R177). Its accumulator additions
and fabric writes are joined by the group `g` too, whichever group issued it (R224, R230). -/
def State.joinOp (s : State) (g o : Nat) : State :=
  let e := s.op o
  let s := e.wrote.foldl (fun s w => s.enterJoined o w) s
  let s := s.modOp o fun e => { e with wrote := [] }
  (s.modGroup g fun x => { x with adds := e.adds ++ x.adds.filter fun a => !e.adds.contains a }).learn g e.rel.toList

/-- Join operations in issue order until one has a pending fault of the group `g`. The fault is then no longer pending,
and the operation counts as joined. -/
def State.joinAll (s : State) (g : Nat) : List Nat → Option (Nat × BitVec 64) × State
  | [] => (none, s)
  | o :: t =>
    let e := s.op o
    let s := s.joinOp g o
    if e.grp == g then
      let s := s.modOp o fun e => { e with joined := true, fault := none }
      match e.fault with
      | some fv => (some fv, s)
      | none => s.joinAll g t
    else s.joinAll g t

/-- What a join point comes to (R237, R331): a fault to deliver, one that aborts the open region, or none. -/
inductive JoinEnd
  | fault (code : Nat) (va : BitVec 64)
  | abort (code : Nat)
  | done
  deriving DecidableEq, Repr

/-- Group `g` joins operations at a WAITC, CHCFG or YIELDC. Inside a region a pending fault aborts all of RM, or meets no lane of it, and
stays pending on its operation (R331). -/
def State.joinPoint (s : State) (g : Nat) (os : List Nat) : JoinEnd × State :=
  match s.joinAll g os with
  | (none, s2) => (.done, s2)
  | (some (c, va), s2) =>
    let x := s.group g
    if x.region.depth = 0 then (.fault c va, s2)
    else if x.region.rm != 0 then (.abort c, s)
    else
      let (bad, good) := os.partition fun o => (s.op o).grp == g && (s.op o).fault.isSome
      (.done, bad.foldl (fun s o => s.joinOp g o) (s.joinAll g good).2)

/-- The executing group's join point: it goes on by `k`, unless a fault is delivered or aborts its region. -/
def State.joinThen (s : State) (os : List Nat) (k : State → State) : State :=
  match s.joinPoint s.cur os with
  | (.fault c va, s) => s.raiseJoin c va
  | (.abort c, s) => s.setGrp (s.grp.abortAll (abFault c))
  | (.done, s) => k s

/-- END (R141, R237): it first waits for the group's engine operations, joins them and delivers their faults. -/
def execEndOp (f : GuardOp) (s : State) : Out :=
  s.perform f.guard (ilen f.ext) fun act s =>
    s.orUnsupported act fun s =>
      let t := s.th
      let s := s.flush s.cur
      let after := t.endLanes act
      let mine := s.opsOf s.cur
      if after.spent && !mine.isEmpty then
        if mine.any fun (_, o) => o.st != .finished then s.waitHere .endJoin
        else
          match s.joinAll s.cur (mine.map (·.1)) with
          | (some (c, va), s) => s.raiseJoin c va
          | (none, s) => s.moveTo { after with pc := t.pc + ilen f.ext }
      else s.moveTo { after with pc := t.pc + ilen f.ext }

/-- The half that takes a SPAWN group: the one with fewer resident, unretired groups, half 0 on a tie, and none that is
fused off (R142). Groups of a saved block are not resident. -/
def State.spawnHalf (s : State) (core : Nat) : Nat :=
  let count (h : Nat) : Nat := (s.groups.filter fun (_, g) =>
    g.core == core && g.half == h && !g.retired && (s.block g.block).st == .resident).length
  let good (h : Nat) : Bool := (s.core core).lmap.toNat / 2 ^ (32 * h) % 2 ^ 32 != 0
  if !good 0 then 1 else if !good 1 then 0 else if count 1 < count 0 then 1 else 0

/-- Create one SPAWN group in a pool slot (R142). -/
def State.spawnOne (s : State) (k : Kernel) (woff slot index : Nat) (param : DWord) : State :=
  let x := s.grp
  let g := Tab.fresh s.groups
  let r : Regs := {}
  let r := (r.setScal 0 param).setScal 1 (BitVec.ofNat 64 index)
  let th : Thread := { pc := 8 * woff, body := k.bodyOf woff, exec := x.allLanes, live := x.allLanes, strand := x.allLanes,
                       regs := r }
  let y : Group := { th := th, block := x.block, core := x.core, half := s.spawnHalf x.core, grpid := 32 + slot,
                     l16 := x.l16, known := x.known }
  let s := s.setGroup g y
  let s := s.modCore x.core fun c => { c with pool := c.pool.put slot g }
  s.modBlock x.block fun b => { b with groups := b.groups ++ [g] }

/-- SPAWN (R142). -/
def execSpawn (f : SpawnOp) (s : State) : Out :=
  s.perform Guard.always 16 fun act s =>
    s.orUnsupported act fun s =>
      let s := s.flush s.cur
      let x := s.grp
      let k := s.kernelOf x
      let n := min (s.env.uval f.b 64) 16
      let free := (List.range 16).filter fun i => ((s.core x.core).pool.find? i).isNone
      let slots := free.take n
      let param := s.th.regs.scal f.a.toNat
      let woff := ((k.entries[f.entry.toNat]?).getD ⟨0, 0⟩).woff
      let s := slots.zipIdx.foldl (fun s (slot, i) => s.spawnOne k woff slot i param) s
      (s.setRegs (s.th.regs.setScal f.d.toNat (BitVec.ofNat 64 slots.length))).advance 16

/-- YIELD (R144). -/
def execYield (f : PlainOp) (s : State) : Out :=
  s.perform Guard.always (ilen f.ext) fun act s =>
    s.orUnsupported act fun s => ((s.flush s.cur).advance (ilen f.ext)).waitHere .yield

/-- NOP (R145). -/
def execNop (f : PlainOp) (s : State) : Out :=
  s.perform Guard.always (ilen f.ext) fun _ s => s.advance (ilen f.ext)

/-- TRAP (R146). -/
def execTrap (f : TrapOp) (s : State) : Out :=
  s.perform f.guard (ilen f.ext) fun act s =>
    s.orUnsupported act fun s => (s.flush s.cur).raiseTrap (ilen f.ext) act fcSoftwareTrap f.code

/-- BKPT (R146), a commit point (R323): inside a region its lanes abort with FAULT, and it is raised for the active lanes outside RM (R331). -/
def execBkpt (f : TrapOp) (s : State) : Out :=
  s.perform f.guard (ilen f.ext) fun act s =>
    let s := s.flush s.cur
    let x := s.grp
    let out := act &&& ~~~x.rm
    let y := x.abortWith (act &&& x.rm) (fun _ => abFault fcBreakpoint) false
    if out = 0 then s.setGrp y
    else if x.inRegion act then
      let pc := x.th.pc
      let next := y.after x (pc + ilen f.ext)
      (s.setGrp y.completed).route s.cur
        { code := fcBreakpoint, va := 0, lanes := out, trap := f.code, pc := pc, rte := next, skip := next, killed := 0,
          join := false }
    else s.raiseTrap (ilen f.ext) act fcBreakpoint f.code

/-- A group whose NP has stood for 100,000 cycles at clock value `v` loses it, and its NOPREEMPT_OVERRUN is due (R148). -/
def Group.passClock (x : Group) (v : BitVec 64) : Group :=
  if x.np && !x.retired && decide (x.npClock.toNat + 100000 ≤ v.toNat) then { x with np := false, overrun := true } else x

/-- A core's cycle counter stands at a value (R148, R344). -/
def State.passClock (s : State) (c : Nat) (v : BitVec 64) : State :=
  let s := s.modCore c fun k => { k with clock := v }
  { s with groups := s.groups.mapVals fun _ x => if x.core == c then x.passClock v else x }

/-- The next value of a core's cycle counter (R344): it only grows. A 64-bit counter of cycles does not come to its end: no value
passes 2^64 - 1. -/
def State.readClock (s : State) (c : Nat) : BitVec 64 × State :=
  let (q, s) := s.draw
  let v := BitVec.ofNat 64 (min (2 ^ 64 - 1) ((s.core c).clock.toNat + 1 + q))
  (v, s.passClock c v)

/-- NPBEG (R147). -/
def execNpbeg (f : PlainOp) (s : State) : Out :=
  s.perform Guard.always (ilen f.ext) fun act s =>
    s.orUnsupported act fun s =>
      let s := s.flush s.cur
      if s.grp.np then s.advance (ilen f.ext)
      else
        let (v, s) := s.readClock s.grp.core
        (s.setGrp { s.grp with np := true, npClock := v }).advance (ilen f.ext)

/-- NPEND (R147). -/
def execNpend (f : PlainOp) (s : State) : Out :=
  s.perform Guard.always (ilen f.ext) fun act s =>
    s.orUnsupported act fun s =>
      let s := s.flush s.cur
      (s.setGrp { s.grp with np := false }).advance (ilen f.ext)

end Sys2Proof.Machine
end

