-- ==== Sys2Proof/Machine/Flags.lean ====
section
/-! DEFINITION. The condition codes (R38), predicate reads, and the integer results that set carries (R57, R75). -/

namespace Sys2Proof.Machine

/-- How two values stand to each other. -/
inductive Rel
  | lt | eq | gt | unord
  deriving DecidableEq, Repr

/-- The relation of two integers. -/
def relInt (a b : Int) : Rel := if a < b then .lt else if a = b then .eq else .gt

/-- Whether a condition code holds of a relation (R38). Codes 8 to 15 are those that NaN makes true. -/
def condHolds (cc : Nat) (r : Rel) : Bool :=
  match cc with
  | 0 => r == .eq
  | 1 => r == .lt || r == .gt
  | 2 => r == .lt
  | 3 => r == .lt || r == .eq
  | 4 => r == .gt
  | 5 => r == .gt || r == .eq
  | 8 => r == .eq || r == .unord
  | 9 => r != .eq
  | 10 => r == .lt || r == .unord
  | 11 => r != .gt
  | 12 => r == .gt || r == .unord
  | 13 => r != .lt
  | 14 => r != .unord
  | 15 => r == .unord
  | _ => false

/-- Predicate operand C of an entry in lane `l` (R62). -/
def Env.ptest (e : Env) (i : Idx) (l : Nat) : Bool := (e.regs.pred i.toNat).getLsbD l

/-- The index in a register operand. -/
def opndIdx : Opnd → Idx
  | .reg i | .scal i | .slot i | .imm14 i => i
  | .imm32 _ => 0

/-- A result of type `t` for a 64-bit scalar: `.i32` is filled with copies of bit 31, every other narrow result with
zeros (R57). A vector register takes the low bits. -/
def fill (t : Ty) (x : Nat) : Nat := if t == .i32 then wrap (sext x 32) 64 else x

/-- `val(x, T)` (R61's helpers). -/
def tyVal (t : Ty) (x : Nat) : Int := if t.signed then sext x t.width else (x % 2 ^ t.width : Nat)

/-- The least value of an integer type. -/
def tyMin (t : Ty) : Int := if t.signed then -(2 ^ (t.width - 1) : Nat) else 0

/-- The greatest value of an integer type. -/
def tyMax (t : Ty) : Int := if t.signed then (2 ^ (t.width - 1) : Nat) - 1 else (2 ^ t.width : Nat) - 1

/-- Clamp to a range. -/
def clamp (x lo hi : Int) : Int := if x < lo then lo else if hi < x then hi else x

/-- `finish(x, T)`: saturate or wrap (R61's helpers). -/
def finish (sat : Bool) (t : Ty) (x : Int) : Nat := wrap (if sat then clamp x (tyMin t) (tyMax t) else x) t.width

/-- The lowest lane of a mask (0 for none). -/
def lowestLane (m : Mask) : Nat := (lanesOf m).headD 0

end Sys2Proof.Machine
end

