-- ==== Sys2Proof/Machine/Memory.lean ====
section
/-! DEFINITION. Memory instructions, opcodes 0x70 to 0x79: loads, stores, PREF, EVICT and FENCE (R151, R181 to R189), with
their behaviour inside a speculative region (R306 to R309). -/

namespace Sys2Proof.Machine

/-- The spaces of the loads, stores and atomics (R151). -/
inductive MSpace
  | glob | own | peer
  deriving DecidableEq, Repr

/-- Where one lane's access goes, after its checks. -/
structure Target where
  /-- the virtual address, or the offset in an allocation -/
  va : Nat
  loc : Nat
  line : LineId
  view : Bool
  /-- R307: not allowed inside a region -/
  unsup : Bool
  /-- the page has NC: no cache serves it (R165) -/
  nc : Bool := false
  deriving DecidableEq, Repr

/-- A failed check: fault code, `faultva`, and whether the page is one that R307 does not allow. -/
structure Failed where
  code : Nat
  va : BitVec 64
  unsup : Bool
  deriving DecidableEq, Repr

/-- Bytes of an access (R42). -/
def accSize (a : Acc) : Nat :=
  match a with
  | .n8 | .i8 => 1
  | .n16 | .i16 => 2
  | .b32 => 4
  | .b64 => 8

/-- Whether an access code sign-fills (R42). -/
def accSigned (a : Acc) : Bool := a == .i8 || a == .i16

/-- Host pages, pages of another package and NC pages (R307). -/
def State.regionPage (s : State) (p : Phys) : Bool :=
  p.nc || p.cls == 2 || (s.farPackage p.pa).isSome

/-- Whether the page that an access of a pass has used, and does not reach (R160), has NC. -/
def ncOf (seen : List PageUse) (ea pass : Nat) : Bool :=
  match (seen.find? fun u => u.pass == pass && decide (u.base ≤ ea) && decide (ea < u.base + u.size)).bind (·.map) with
  | some (e, _, _) => e.getLsbD 7
  | none => false

/-- The target of a global access of the executing group in a pass, checked by R184 items 1 and 3 to 5. A misaligned access
to a page that R307 does not allow is marked so, where its page is present (DEDUCED, log entry 10). -/
def State.globTarget (s : State) (ea n : Nat) (u : Use) (pass : Nat) (seen : List PageUse) :
    Except Failed Target × List PageUse × State :=
  let va := BitVec.ofNat 64 (ea % 2 ^ 56)
  match s.translateOnce (s.ctxOf s.cur) ea pass seen with
  | (none, seen, s) => (.error ⟨if ea % n != 0 then fcMisaligned else fcPageNotPresent, va, ncOf seen ea pass⟩, seen, s)
  | (some p, seen, s) =>
    let bad := s.regionPage p
    let r : Except Failed Target :=
      if ea % n != 0 then .error ⟨fcMisaligned, va, bad⟩
      else match p.useFault u with
        | some c => .error ⟨c, va, bad⟩
        | none =>
          if s.unboundView (s.ctxOf s.cur) p then .error ⟨fcPageNotPresent, va, bad⟩ else
          let t : Target := { va := ea, loc := p.pa, line := ⟨0, ea / 128⟩, view := p.cls == 3, unsup := bad, nc := p.nc }
          if p.cls == 3 && (s.viewBytes (s.ctxOf s.cur) p.pa n).isNone then .error ⟨fcNameBad, va, bad⟩
          else if u == .load && s.unreach p.pa then .error ⟨fcFabricUnreachable, va, bad⟩
          else .ok t
    (r, seen, s)

/-- The target of an access to the own scratchpad (R184 items 1 and 2). -/
def State.ownTarget (s : State) (ea n : Nat) : Except Failed Target :=
  if ea % n != 0 then .error ⟨fcMisaligned, BitVec.ofNat 64 ea, false⟩
  else match s.scratchLoc s.grp.block ea n with
    | none => .error ⟨fcScratchBounds, BitVec.ofNat 64 ea, false⟩
    | some l => .ok { va := ea, loc := l, line := ⟨1, ea / 128⟩, view := false, unsup := false }

/-- The target of a peer access (R152, R184). -/
def State.peerTarget (s : State) (ea n : Nat) : Except Failed Target :=
  if ea % n != 0 then .error ⟨fcMisaligned, BitVec.ofNat 64 (ea % 2 ^ 56), false⟩
  else match s.peerLoc s.grp.block ea n with
    | none => .error ⟨fcScratchBounds, BitVec.ofNat 64 (ea % 2 ^ 56), false⟩
    | some (_, l) =>
      .ok { va := ea % 2 ^ 32, loc := l, line := ⟨2 + ea / 2 ^ 32, ea % 2 ^ 32 / 128⟩, view := false, unsup := false }

/-- The target of an access in a space. -/
def State.target (s : State) (sp : MSpace) (ea n : Nat) (u : Use) : Except Failed Target × State :=
  match sp with
  | .glob =>
    let (r, _, s) := s.globTarget ea n u 0 []
    (r, s)
  | .own => (s.ownTarget ea n, s)
  | .peer => (s.peerTarget ea n, s)

/-- The pass of a lane of the executing group: of its window lane where a legacy pair issues together (R26, R107). -/
def State.passOfLane (s : State) (l : Nat) : Nat := passOf (goodLanes (s.core s.grp.core).lmap s.grp.half) (s.grp.window + l)

/-- The targets of lanes in ascending order, with the pages translated so far (R162). -/
def State.targetsFrom (s : State) (sp : MSpace) (n : Nat) (u : Use) (ea : Nat → Nat) (seen : List PageUse) :
    List Nat → List (Nat × Except Failed Target) × State
  | [] => ([], s)
  | l :: t =>
    let (r, seen, s) : Except Failed Target × List PageUse × State :=
      match sp with
      | .glob => s.globTarget (ea l) n u (s.passOfLane l) seen
      | .own => (s.ownTarget (ea l) n, seen, s)
      | .peer => (s.peerTarget (ea l) n, seen, s)
    let (rs, s) := s.targetsFrom sp n u ea seen t
    ((l, r) :: rs, s)

/-- The targets of an instruction's lanes, in ascending order. -/
def State.targets (s : State) (sp : MSpace) (n : Nat) (u : Use) (ea : Nat → Nat) (ls : List Nat) :
    List (Nat × Except Failed Target) × State := s.targetsFrom sp n u ea [] ls

/-- The lanes whose checks failed. -/
def failedLanes (rs : List (Nat × Except Failed Target)) : List (Nat × Failed) :=
  rs.filterMap fun (l, r) => match r with | .error f => some (l, f) | .ok _ => none

/-- The lanes whose checks passed. -/
def passedLanes (rs : List (Nat × Except Failed Target)) : List (Nat × Target) :=
  rs.filterMap fun (l, r) => match r with | .ok t => some (l, t) | .error _ => none

/-- The mask of a list of lanes. -/
def lanesMask (ls : List Nat) : Mask := ls.foldl (fun m l => m ||| laneBit l) 0

/-- Raise the faults of the failing lanes of an instruction of `n` bytes (R184, R331): a uniform form names every active
lane. -/
def State.raiseFailed (s : State) (n : Nat) (act : Mask) (su : Bool) (fs : List (Nat × Failed)) : State :=
  let fault (l : Nat) : Nat × BitVec 64 :=
    match (if su then fs.head? else fs.find? fun x => x.1 == l) with
    | some (_, f) => (f.code, f.va)
    | none => (0, 0)
  s.raiseLanes n (if su then act else lanesMask (fs.map (·.1))) fault none 0

/-! ### Regions (R303, R306, R308) -/

/-- The distinct lines of the store buffer. -/
def Region.storeLines (r : Region) : List LineId :=
  r.buffer.foldl (fun ls b => if ls.contains b.line then ls else ls ++ [b.line]) []

/-- Lanes, ascending, that find no entry left among `cap` for their line. -/
def overflowLanes (cap : Nat) : List LineId → List (Nat × LineId) → List Nat
  | _, [] => []
  | have_, (l, x) :: t =>
    if have_.contains x then overflowLanes cap have_ t
    else if have_.length < cap then overflowLanes cap (x :: have_) t
    else l :: overflowLanes cap have_ t

/-- The lanes that have read a line, and those that have stored to it. -/
def Region.readers (r : Region) (x : LineId) : Mask :=
  r.reads.foldl (fun m e => if e.line == x then m ||| e.mask else m) 0
def Region.writers (r : Region) (x : LineId) : Mask :=
  r.buffer.foldl (fun m b => if b.line == x then m ||| laneBit b.lane else m) 0

/-- Every lane of an aliased line but the lowest (R308 ALIAS); 0 where the line does not alias. -/
def aliasLanes (readers writers : Mask) : Mask :=
  if (lanesOf writers).any fun w => readers &&& ~~~laneBit w != 0 then
    (readers ||| writers) &&& ~~~laneBit (lowestLane (readers ||| writers))
  else 0

/-- The lanes that the accesses `ts` of region lanes abort with OVERFLOW, or else with ALIAS (R306, R308, R309). -/
def Region.abortsOf (r : Region) (store : Bool) (ts : List (Nat × LineId)) : Option (Mask × Half) :=
  let spill := lanesMask (if store then overflowLanes 32 r.storeLines ts else overflowLanes 256 (r.reads.map (·.line)) ts)
  if spill != 0 then some (spill, abOverflow)
  else
    let new (x : LineId) : Mask := lanesMask ((ts.filter fun t => t.2 == x).map (·.1))
    let al := ts.foldl (fun m t =>
      m ||| (if store then aliasLanes (r.readers t.2) (r.writers t.2 ||| new t.2)
             else aliasLanes (r.readers t.2 ||| new t.2) (r.writers t.2))) 0
    if al != 0 then some (al, abAlias) else none

/-- A line joins the read set, or a lane joins its mask (R306). -/
def Region.noteRead (r : Region) (lane : Nat) (t : Target) : Region :=
  if r.reads.any fun e => e.line == t.line then
    { r with reads := r.reads.map fun e => if e.line == t.line then { e with mask := e.mask ||| laneBit lane } else e }
  else { r with reads := r.reads ++ [{ line := t.line, mask := laneBit lane, loc := t.loc / 128 * 128 }] }

/-- The bytes of a load as a region lane sees them: its own buffered bytes over the others (R306). -/
def Region.overlay (r : Region) (lane loc : Nat) (bs : List MByte) : List MByte :=
  bs.zipIdx.map fun (b, i) =>
    (gatedByte ((r.buffer.filter fun x => x.lane == lane).map (·.w)) (loc + i) b.poison).getD b

/-! ### Loads and stores (R183) -/

/-- The bytes of one lane's load (R166, R183), joining the writes below a watermark first (R213); `home` for the policy that
passes the caches by (R182). -/
def State.loadTarget (s : State) (t : Target) (n : Nat) (home : Bool) : List MByte × State :=
  if t.view then ((s.viewBytes (s.ctxOf s.cur) t.loc n).getD [], s)
  else (s.joinBelow s.grp.block t.va t.loc n).load s.cur t.loc n (home || t.nc)

/-- The bytes of every lane's load. -/
def State.loadAll (s : State) (n : Nat) (home : Bool) : List (Nat × Target) → List (Nat × Target × List MByte) × State
  | [] => ([], s)
  | (l, t) :: rest =>
    let (bs, s) := s.loadTarget t n home
    let (r, s) := s.loadAll n home rest
    ((l, t, bs) :: r, s)

/-- The channels that make an access wait (R212). -/
def State.waitsOn (s : State) (n : Nat) (ts : List (Nat × Target)) : List (Nat × Nat) :=
  ts.flatMap fun (_, t) => s.blockers s.grp.block t.va t.loc n none

/-- A loaded value, widened (R183). -/
def widen (a : Acc) (bs : List MByte) : DWord :=
  let v := mVal bs
  BitVec.ofNat 64 (if accSigned a then wrap (sext v (8 * accSize a)) 64 else v)

/-- Write the values of a load (R183): lanes, or one scalar in the uniform form. -/
def Regs.putLoads (r : Regs) (f : MemOp) (vs : List (Nat × List MByte)) : Regs :=
  vs.foldl (fun r (l, bs) =>
    let v := widen f.acc bs
    if f.su then r.setScal f.d.toNat v
    else if f.acc == .b64 then r.setVec64 f.d.toNat l v
    else r.setVec f.d.toNat l (v.setWidth 32)) r

/-- The sector requests of the lanes of a global access (R162): in each pass, the distinct 32-byte sectors of its lanes' addresses. -/
def State.sectors (s : State) (ts : List (Nat × Target)) : Nat :=
  ((ts.filter fun (_, t) => t.line.space == 0).map fun (l, t) => (s.passOfLane l, t.va / 32)).eraseDups.length

/-- Count sector requests in the executing group, in no handler; as many of those of a load may miss L1 (R349). -/
def State.countSectors (s : State) (n : Nat) (load : Bool) : State :=
  if s.grp.hnd.isSome || n = 0 then s
  else s.setGrp (if load then (s.grp.count 5 n).owe 6 n else s.grp.count 5 n)

/-- A load completes in the lanes whose bytes are clean, and the others, or every live lane of a uniform one, are killed (R185). -/
def State.completeLoad (s : State) (f : MemOp) (vs : List (Nat × List MByte)) : State :=
  let bad := vs.filter fun (_, bs) => anyPoison bs
  let s := (s.setRegs (s.th.regs.putLoads f (vs.filter fun (_, bs) => !anyPoison bs))).advance (ilen f.ext)
  if bad.isEmpty then s
  else s.kill (if f.su then s.th.live else lanesMask (bad.map (·.1)))

/-- The load of lanes whose checks passed. Region lanes take UE, OVERFLOW and ALIAS aborts first: then nothing has been performed, but
that the free values it took are spent (R309; DEDUCED, log entry 10). -/
def State.finishLoad (s : State) (f : MemOp) (rm : Mask) (ts : List (Nat × Target)) : State :=
  let (vs, s1) := s.loadAll (accSize f.acc) (f.pol == .home) ts
  let r := s.grp.region
  let inRm (l : Nat) : Bool := rm.getLsbD l
  let vs := vs.map fun (l, t, bs) => (l, t, if inRm l && !t.view then r.overlay l t.loc bs else bs)
  let bad := vs.filter fun (_, _, bs) => anyPoison bs
  let new (x : LineId) : Mask := lanesMask ((ts.filter fun (l, t) => inRm l && t.line == x).map (·.1))
  let ue : Mask := bad.foldl (fun m (l, t, _) => if inRm l then m ||| new t.line ||| r.readers t.line else m) 0
  -- lanes outside RM find a read-set line poisoned: its readers abort at the next boundary
  let found := bad.foldl (fun m (l, t, _) => if inRm l then m else m ||| r.readers t.line) 0
  let joins := ts.filter fun (l, t) => inRm l && !t.view
  if ue != 0 then { s with free := s1.free }.setGrp (s.grp.abortWith ue (fun _ => abUe) false)
  else match r.abortsOf false (joins.map fun (l, t) => (l, t.line)) with
    | some (m, c) => { s with free := s1.free }.setGrp (s.grp.abortWith m (fun _ => c) false)
    | none =>
      let x := s1.grp
      let r := joins.foldl (fun r (l, t) => r.noteRead l t) x.region
      ((s1.setGrp { x with region := r, ue := x.ue ||| found }).countSectors (s.sectors ts) true).completeLoad f (vs.map fun (l, _, bs) => (l, bs))

/-- The low bytes of the data of a store. -/
def storeData (f : MemOp) (r : Regs) (l : Nat) : List MByte :=
  leMBytes (accSize f.acc)
    (if f.su then r.scal f.d.toNat
     else if f.acc == .b64 then r.vec64 f.d.toNat l else (r.vec f.d.toNat l).setWidth 64).toNat

/-- The store of lanes whose checks passed, after the joins of R213: region lanes store into the buffer, the others into the group's gated
stores, lane by lane, so that the highest-numbered lane prevails (R175, R306, R324); until it does, a load may find the byte of a lane
that loses (DESIGN CHOICE, log entry 97). -/
def State.finishStore (s : State) (f : MemOp) (rm : Mask) (ts : List (Nat × Target)) : State :=
  let mine := ts.filter fun (l, _) => rm.getLsbD l
  match s.grp.region.abortsOf true (mine.map fun (l, t) => (l, t.line)) with
  | some (m, c) => s.setGrp (s.grp.abortWith m (fun _ => c) false)
  | none =>
    let s := ts.foldl (fun s (_, t) => s.joinBelow s.grp.block t.va t.loc (accSize f.acc)) s
    let x := s.grp
    let n := accSize f.acc
    let locs := (ts.map fun (_, t) => t.loc).eraseDups
    let write (l : Nat) (t : Target) : Write :=
      { loc := t.loc, bytes := storeData f s.th.regs l, va := BitVec.ofNat 64 t.va,
        whole := (locs.filter fun a => a / 32 == t.loc / 32).length * n == 32 }
    let buf := mine.map fun (l, t) => ({ lane := l, line := t.line, w := write l t } : BufStore)
    let out := (ts.filter fun (l, _) => !rm.getLsbD l).map fun (l, t) => write l t
    ((s.setGrp { x with region := { x.region with buffer := x.region.buffer ++ buf }, gated := x.gated ++ out }).countSectors
      (s.sectors ts) false).advance (ilen f.ext)

/-- A load or store in a space (R183, R184, R306): a uniform access is one access, made for the lowest active lane, or
for the lowest one in RM (DEDUCED, log entry 10). -/
def State.memAccess (s : State) (f : MemOp) (sp : MSpace) (store : Bool) : Out :=
  s.perform f.guard (ilen f.ext) fun act s =>
    let rm := act &&& s.grp.rm
    let e := s.env
    let lanes := if f.su then [if rm = 0 then lowestLane act else lowestLane rm] else lanesOf act
    let ea (l : Nat) : Nat := e.ea f.a f.vb (sp != .own) f.addr l
    let (rs, s) := s.targets sp (accSize f.acc) (if store then .store else .load) ea lanes
    let unsup := rs.any fun (l, r) =>
      rm.getLsbD l && (match r with | .ok t => t.unsup | .error x => x.unsup)
    if unsup then s.setGrp (s.grp.abortAll abUnsupported)
    else match failedLanes rs with
      | [] =>
        let ts := passedLanes rs
        match s.waitsOn (accSize f.acc) ts with
        | [] => if store then s.finishStore f rm ts else s.finishLoad f rm ts
        | w => s.waitHere (.watermark w)
      | fs => s.raiseFailed (ilen f.ext) act f.su fs

/-- LD (R183). -/
def execLd (f : MemOp) (s : State) : Out := s.memAccess f .glob false
/-- ST (R183). -/
def execSt (f : MemOp) (s : State) : Out := s.memAccess f .glob true
/-- LDS (R183). -/
def execLds (f : MemOp) (s : State) : Out := s.memAccess f .own false
/-- STS (R183). -/
def execSts (f : MemOp) (s : State) : Out := s.memAccess f .own true
/-- LDP (R183). -/
def execLdp (f : MemOp) (s : State) : Out := s.memAccess f .peer false
/-- STP (R183). -/
def execStp (f : MemOp) (s : State) : Out := s.memAccess f .peer true

/-- Bytes of the constant bank, with their poison (R379); those at or beyond CONSTLEN read zero (R183). -/
def State.constBytes (s : State) (a n : Nat) : List MByte :=
  (List.range n).map fun i => ⟨constByte s.bank (a + i), s.badBank.contains (a + i)⟩

/-- LDC (R183): bytes at or beyond CONSTLEN read zero; only alignment is checked. Region lanes that receive poisoned bytes abort with UE
(R308), and a uniform load in a region is one access as in log entry 10; outside one, poison is R185's. -/
def execLdc (f : MemOp) (s : State) : Out :=
  s.perform f.guard (ilen f.ext) fun act s =>
    let e := s.env
    let n := accSize f.acc
    let lanes := if f.su then [lowestLane act] else lanesOf act
    let ea (l : Nat) : Nat := e.ea f.a f.vb false f.addr l
    match lanes.filter fun l => ea l % n != 0 with
    | [] =>
      let vs := lanes.map fun l => (l, s.constBytes (ea l) n)
      let rm := act &&& s.grp.rm
      let bad := lanesMask ((vs.filter fun (_, bs) => anyPoison bs).map (·.1))
      let ue := if f.su then (if bad = 0 || rm = 0 then 0 else laneBit (lowestLane rm)) else bad &&& rm
      if ue != 0 then s.setGrp (s.grp.abortWith ue (fun _ => abUe) false) else s.completeLoad f vs
    | bad => s.raiseFailed (ilen f.ext) act f.su (bad.map fun l => (l, ⟨fcMisaligned, BitVec.ofNat 64 (ea l), false⟩))

/-! ### Placement and fences -/

/-- The lines of the lanes' global addresses whose translation and checks succeed, each once, with whether its page passes the caches by;
the other lanes are dropped (R187, R188). A view's lines are the named lines', not the address's. -/
def State.cacheLines (s : State) (e : Env) (a : Idx) (vb : Bool) (ad : AddrForm) (act : Mask) : List (Nat × Bool) × State :=
  let (rs, s) := s.targets .glob 1 .load (fun l => e.ea a vb true ad l) (lanesOf act)
  (((passedLanes rs).filterMap fun (_, t) => if t.view then none else some (t.loc / 128 * 128, t.nc)).eraseDups, s)

/-- PREF (R187): it moves lines between caches, which no value shows, and raises no fault (DESIGN CHOICE, log entry 17). A fetch that
reaches the controller is a read there (R161). -/
def execPref (f : PrefOp) (s : State) : Out :=
  s.perform f.guard (ilen f.ext) fun act s =>
    let (ls, s) := s.cacheLines s.env f.a f.vb f.addr act
    (ls.foldl (fun s (a, nc) => s.readHome a 128 (f.pol == .home || nc)) s).advance (ilen f.ext)

/-- EVICT (R188): as PREF; inside a region it aborts, and is no commit point (R307, R323; DESIGN CHOICE, log entry 17). -/
def execEvict (f : EvictOp) (s : State) : Out :=
  match f with
  | .line g ext _ vb a ad =>
    s.perform g (ilen ext) fun act s =>
      s.orUnsupported act (point := false) fun s => (s.cacheLines s.env a vb ad act).2.advance (ilen ext)
  | .l1all => s.perform Guard.always 16 fun act s => s.orUnsupported act (point := false) fun s => s.advance 16

/-- A release takes its place in the order S of `.sc` fences and atomics: the order of their numbers (R172; DEDUCED, log entry 12). -/
def State.inOrderS (s : State) (m : Nat) : State :=
  match s.rels.find? m with
  | some r => { s with rels := s.rels.put m { r with sc := true } }
  | none => s

/-- The executing group, whose newest release stands in S, learns the releases before it in S, where each scope contains the
other's core (R172). -/
def State.learnS (s : State) (r : Nat) : State :=
  let x := s.grp
  let mine := (x.known.head?).getD 0
  s.learn s.cur (s.rels.flatMap fun (m, q) =>
    if q.sc && decide (m < mine) && inScope q.scope q.core x.core && inScope r x.core q.core then m :: q.known else [])

/-- The release part of an order, by the executing group: the state, or the first undelivered store (R168, R186). A
`.sc` release completes before the instruction goes on (R172). -/
def State.orderRelease (s : State) (o : Order) (r : Nat) (mask : BitVec 4) : Option (BitVec 64) × State :=
  match o with
  | .rel | .ar =>
    let (lost, _, s) := s.release s.cur r mask
    (lost, s)
  | .sc =>
    let (lost, m, s) := s.release s.cur r mask
    (lost, (s.inOrderS m).completeAll s.grp.core)
  | .relaxed | .acq => (none, s)

/-- The acquire part of an order (R169): that of an `.sc` one follows the releases before it in S (R172). -/
def State.orderAcquire (s : State) (o : Order) (r : Nat) (mask : BitVec 4) : State :=
  match o with
  | .acq | .ar => s.acquire s.cur r mask
  | .sc => (s.learnS r).acquire s.cur r mask
  | .relaxed | .rel => s

/-- FENCE (R189): a commit point; it executes inside a region. -/
def execFence (f : FenceOp) (s : State) : Out :=
  s.perform Guard.always 16 fun act s =>
    let r := scopeRank f.scope
    match (s.flush s.cur).orderRelease f.order r f.mask with
    | (some va, s) => s.raise 16 act fcFabricUnreachable va
    | (none, s) => (s.orderAcquire f.order r f.mask).advance 16

end Sys2Proof.Machine
end

