-- ==== Sys2Proof/Machine/Spec.lean ====
section
/-! DEFINITION. Speculative regions, opcodes 0xE0 to 0xE3, and the aborts taken at an instruction boundary (R303 to R321,
R339). -/

namespace Sys2Proof.Machine

/-- Take a group's pending CONFLICT aborts, and then its UE aborts, at an instruction boundary outside a handler (R308, R309; DEDUCED,
log entry 45). -/
def Group.takeConflict (x : Group) : Group :=
  let y := if x.region.depth = 0 then x else x.abortWith x.conflict (fun _ => abConflict) false
  let y := if y.region.depth = 0 then y else y.abortWith y.ue (fun _ => abUe) false
  { y with conflict := 0, ue := 0 }

/-- Take a group's pending PREEMPT abort (R309, R316). The request stays noted until the group is saved. -/
def Group.takePreempt (x : Group) : Group := if x.region.depth = 0 then x else x.abortAll abPreempt

/-- Whether an abort between instructions is due: not in a handler, and PREEMPT not while NP is set (R316). -/
def Group.conflictDue (x : Group) : Bool := (x.conflict != 0 || x.ue != 0) && x.hnd.isNone
def Group.preemptDue (x : Group) : Bool :=
  x.preempt && x.region.depth != 0 && x.region.rm != 0 && x.hnd.isNone && !x.np

/-- Close the open region of a group: the try entry becomes a pending entry for the live aborted lanes, or goes (R305,
R312). -/
def Group.closeRegion (x : Group) : Group :=
  let am := x.region.am
  let t := x.th
  { x with region := x.region.close, conflict := 0, ue := 0,
           th := { t with stack := closeTry am (am &&& t.live &&& ~~~t.ended != 0) t.stack } }

/-- Open a region for the active lanes (R303, R305, R313). -/
def Group.openRegion (x : Group) (f : TryOp) (act : Mask) (target : Nat) (j : Option Nat) : Group :=
  let t := x.th
  { x with
    abortc := 0, conflict := 0, ue := 0,
    region := { depth := 1, mode := f.group, rm := act, am := 0, entry := act, anyc := false, code := [],
                ckRegs := t.regs, ckPtr := x.stkptr, ckBody := t.body, ckDepth := t.depth, buffer := [], reads := [] },
    th := { t with stack := .tryE target :: pushJoin j t.exec t.stack } }

/-- TRY (R313, R318). -/
def execTryOp (f : TryOp) (s : State) : Out :=
  s.perform Guard.always 16 fun act s =>
    let s := s.flush s.cur
    let x := s.grp
    let t := x.th
    let begin_ (x : Group) (act : Mask) : State :=
      (s.setGrp (x.openRegion f act (t.target f.target) ((s.kernelOf x).joinOf t.body t.word))).advance 16
    if x.region.depth = 0 then begin_ x act
    else if act &&& ~~~x.region.rm != 0 then
      -- in group mode too the TRY's own lanes go on, and the aborted ones wait (R313; DEDUCED, log entry 10)
      let x := { x with region := { x.region with mode := false } }
      begin_ (x.abortAll abNesting).closeRegion (act &&& ~~~x.region.rm)
    else if x.region.depth < 4 then
      (s.setGrp { x with region := { x.region with depth := x.region.depth + 1 } }).advance 16
    else s.setGrp (x.abortAll abNesting)

/-- Publish the buffered bytes of the committing lanes to the core's view as one action (R312). -/
def State.commitLanes (s : State) (lanes : Mask) : State :=
  let x := s.grp
  let mine := x.region.buffer.filter fun b => lanes.getLsbD b.lane
  let s := mine.foldl (fun s b => s.enterStore x.core s.cur b.w (some s.cur)) s
  let x := s.grp
  let r := x.region.forget lanes
  let x : Group := { x with region := { r with rm := r.rm &&& ~~~lanes, anyc := true } }
  s.setGrp (if x.region.rm &&& x.th.live = 0 then x.closeRegion else x)

/-- COMMIT (R312, R319): at DEPTH 1 it first takes pending aborts. With no active lane in RM it leaves the region open, also where RM
is empty by then (DEDUCED, log entry 81). -/
def execCommit (f : PlainOp) (s : State) : Out :=
  s.perform Guard.always (ilen f.ext) fun act s =>
    let s := s.flush s.cur
    let x := s.grp
    match x.region.depth with
    | 0 => s.advance (ilen f.ext)
    | 1 =>
      if x.conflictDue then s.setGrp x.takeConflict
      else if x.preemptDue then s.setGrp x.takePreempt
      else if act &&& x.region.rm = 0 then s.advance (ilen f.ext)
      else (s.commitLanes (act &&& x.region.rm)).advance (ilen f.ext)
    | d + 2 => (s.setGrp { x with region := { x.region with depth := d + 1 } }).advance (ilen f.ext)

/-- ABORT (R320). -/
def execAbort (f : AbortOp) (s : State) : Out :=
  s.perform f.guard (ilen f.ext) fun act s =>
    let x := s.grp
    if act &&& x.rm = 0 then s.advance (ilen f.ext)
    else s.setGrp (x.abortWith (act &&& x.rm) (fun _ => abExplicit f.code.toNat) false)

/-- The `.state` word of TSTAT (R321). -/
def Region.status (r : Region) : DWord :=
  BitVec.ofNat 64 (r.reads.length * 2 ^ 48 + r.storeLines.length * 2 ^ 32 + (if r.mode then 8 else 0) + r.depth)

/-- TSTAT (R321). -/
def execTstat (f : TstatOp) (s : State) : Out :=
  let r := s.grp.region
  s.performRegs Guard.always (ilen f.ext) fun act t =>
    match f.sub with
    | .code => t.regs.putVec f.d.toNat act fun l => (Tab.get 0 r.code l).setWidth 32
    | .state => t.regs.setScal f.d.toNat r.status
    | .mask => t.regs.setScal f.d.toNat (r.rm.setWidth 64)

/-- Whether a group stands at an instruction boundary: no part of an instruction is performed and no wait lies inside one (R309). -/
def Group.atBoundary (x : Group) : Bool := !x.retired && (x.wait == .none || x.wait == .hold)

/-- SPECULATION_CONFLICT (R309): at the group's next instruction boundary its CONFLICT aborts are taken. -/
def execSpeculationConflict (g : Nat) (s : State) : Out :=
  let x := s.group g
  if x.atBoundary && x.conflictDue then .next (s.setGroup g x.takeConflict) else .next s

end Sys2Proof.Machine
end

