-- ==== Sys2Proof/Machine/Num.lean ====
section
/-! DEFINITION. The floating-point formats and exact arithmetic on them (R78 to R85): a value is a NaN, an infinity or a
sign with m * 2^e, and `rnd` rounds it once. -/

namespace Sys2Proof.Machine

/-- An element format (R78): fraction bits, width, bias, the largest finite pattern and the canonical NaN. `ofp8` marks
E4M3, which has no infinity. -/
structure Fmt where
  mb : Nat
  width : Nat
  bias : Nat
  maxBits : Nat
  qnan : Nat
  ofp8 : Bool
  deriving DecidableEq, Repr

def fmtF32 : Fmt := ⟨23, 32, 127, 0x7F7FFFFF, 0x7FC00000, false⟩
def fmtF16 : Fmt := ⟨10, 16, 15, 0x7BFF, 0x7E00, false⟩
def fmtBf16 : Fmt := ⟨7, 16, 127, 0x7F7F, 0x7FC0, false⟩
def fmtE4m3 : Fmt := ⟨3, 8, 7, 0x7E, 0x7F, true⟩
def fmtE5m2 : Fmt := ⟨2, 8, 15, 0x7B, 0x7E, false⟩

/-- The format of a type, or of one element of a pair type (R36). -/
def tyFmt : Ty → Fmt
  | .f16 | .f16x2 => fmtF16
  | .bf16 | .bf16x2 => fmtBf16
  | .e4m3 => fmtE4m3
  | .e5m2 => fmtE5m2
  | _ => fmtF32

/-- Whether a type is a floating-point format. -/
def tyIsFloat : Ty → Bool
  | .f32 | .f16 | .bf16 | .e4m3 | .e5m2 => true
  | _ => false

/-- A value: NaN, an infinity, or (−1)^s * m * 2^e. -/
inductive FV
  | nan
  | inf (s : Bool)
  | fin (s : Bool) (m : Nat) (e : Int)
  deriving DecidableEq, Repr

/-- The sign bit and magnitude of a pattern. -/
def Fmt.sign (f : Fmt) (x : Nat) : Bool := x.testBit (f.width - 1)
def Fmt.mag (f : Fmt) (x : Nat) : Nat := x % 2 ^ (f.width - 1)

/-- The pattern of an infinity: the one after the largest finite value. -/
def Fmt.infBits (f : Fmt) : Nat := f.maxBits + 1

/-- Whether a pattern is a NaN (R78). -/
def Fmt.isNan (f : Fmt) (x : Nat) : Bool :=
  if f.ofp8 then f.mag x == 0x7F else decide (f.infBits < f.mag x)

/-- Whether a pattern is an infinity. -/
def Fmt.isInf (f : Fmt) (x : Nat) : Bool := !f.ofp8 && f.mag x == f.infBits

/-- `fv(x, F)`: the value of a pattern (R78). -/
def Fmt.fv (f : Fmt) (x : Nat) : FV :=
  if f.isNan x then .nan
  else if f.isInf x then .inf (f.sign x)
  else
    let e := f.mag x / 2 ^ f.mb
    let m := f.mag x % 2 ^ f.mb
    if e = 0 then .fin (f.sign x) m (1 - f.bias - f.mb) else .fin (f.sign x) (m + 2 ^ f.mb) ((e : Int) - f.bias - f.mb)

/-- Whether a magnitude rounded down to `n` goes up by one: `rem` of `d` bits and `sticky` are what was cut off. -/
def roundUp (rm : Round) (s : Bool) (n rem d : Nat) (sticky : Bool) : Bool :=
  let cut := rem != 0 || sticky
  match rm with
  | .rn => d != 0 && (decide (2 ^ (d - 1) < rem) || (rem == 2 ^ (d - 1) && (sticky || n % 2 == 1)))
  | .rz => false
  | .ru => cut && !s
  | .rd => cut && s

/-- The integer nearest to m * 2^e in a direction, as a magnitude. -/
def roundInt (rm : Round) (s : Bool) (m : Nat) (e : Int) : Nat :=
  if 0 ≤ e then m * 2 ^ e.toNat
  else
    let d := (-e).toNat
    let n := m / 2 ^ d
    if roundUp rm s n (m % 2 ^ d) d false then n + 1 else n

/-- The magnitude pattern of m * 2^e (plus a little, when `sticky`) rounded to a format, unbounded above (R83 step 3). -/
def Fmt.roundMag (f : Fmt) (rm : Round) (s : Bool) (m : Nat) (e : Int) (sticky : Bool) : Nat :=
  if m = 0 then 0
  else
    let least : Int := 1 - f.bias - f.mb
    let q := max ((m.log2 : Int) + e - f.mb) least
    let n := if q ≤ e then m * 2 ^ (e - q).toNat
      else
        let d := (q - e).toNat
        let n := m / 2 ^ d
        if roundUp rm s n (m % 2 ^ d) d sticky then n + 1 else n
    (q - least).toNat * 2 ^ f.mb + n

/-- Put a sign on a magnitude pattern. -/
def Fmt.signed (f : Fmt) (s : Bool) (mag : Nat) : Nat := if s then 2 ^ (f.width - 1) + mag else mag

/-- The pattern of an infinite result (R83 steps 4 to 6). -/
def Fmt.infinite (f : Fmt) (sat s : Bool) : Nat :=
  if sat then f.signed s f.maxBits else if f.ofp8 then f.qnan else f.signed s f.infBits

/-- Whether an overflow of a sign gives an infinity in a direction (R83 step 3). -/
def toInfinity (rm : Round) (s : Bool) : Bool :=
  match rm with
  | .rn => true
  | .rz => false
  | .ru => !s
  | .rd => s

/-- `rnd(y, F)` for a value with a sticky part (R83). -/
def Fmt.rndSticky (f : Fmt) (rm : Round) (sat : Bool) (y : FV) (sticky : Bool) : Nat :=
  match y with
  | .nan => f.qnan
  | .inf s => f.infinite sat s
  | .fin s m e =>
    let x := f.roundMag rm s m e sticky
    if f.maxBits < x then (if toInfinity rm s then f.infinite sat s else f.signed s f.maxBits) else f.signed s x

/-- `rnd(y, F)` (R83). -/
def Fmt.rnd (f : Fmt) (rm : Round) (sat : Bool) (y : FV) : Nat := f.rndSticky rm sat y false

/-! ### Exact arithmetic (R84, R85) -/

/-- The sign inverted. -/
def FV.neg : FV → FV
  | .nan => .nan
  | .inf s => .inf (!s)
  | .fin s m e => .fin (!s) m e

/-- A signed magnitude as an integer. -/
def signedInt (s : Bool) (m : Nat) : Int := if s then -(m : Int) else m

/-- a + b, exactly; a zero takes the sign of R84. -/
def FV.add (rm : Round) (a b : FV) : FV :=
  match a, b with
  | .nan, _ | _, .nan => .nan
  | .inf s, .inf t => if s == t then .inf s else .nan
  | .inf s, _ => .inf s
  | _, .inf t => .inf t
  | .fin s m e, .fin t n g =>
    let q := min e g
    let x := signedInt s (m * 2 ^ (e - q).toNat) + signedInt t (n * 2 ^ (g - q).toNat)
    if x = 0 then .fin (if s == t then s else rm == .rd) 0 0 else .fin (decide (x < 0)) x.natAbs q

/-- a * b, exactly. -/
def FV.mul (a b : FV) : FV :=
  match a, b with
  | .nan, _ | _, .nan => .nan
  | .inf s, .inf t => .inf (s != t)
  | .inf s, .fin t n _ => if n = 0 then .nan else .inf (s != t)
  | .fin s m _, .inf t => if m = 0 then .nan else .inf (s != t)
  | .fin s m e, .fin t n g => .fin (s != t) (m * n) (e + g)

/-- The place of a non-NaN pattern in the order −∞ < … < −0 < +0 < … < +∞ (R90). -/
def Fmt.key (f : Fmt) (x : Nat) : Int := if f.sign x then -(f.mag x : Int) - 1 else f.mag x

/-- The relation of two patterns: zeros of either sign are equal (R92). -/
def Fmt.rel (f : Fmt) (a b : Nat) : Rel :=
  if f.isNan a || f.isNan b then .unord
  else relInt (signedInt (f.sign a) (f.mag a)) (signedInt (f.sign b) (f.mag b))

/-- FMIN and FMAX (R90): `lo` for the lesser. -/
def Fmt.minmax (f : Fmt) (lo nanMode : Bool) (a b : Nat) : Nat :=
  let na := f.isNan a
  let nb := f.isNan b
  if na && nb then f.qnan
  else if na || nb then (if nanMode then f.qnan else if na then b else a)
  else if decide (f.key a ≤ f.key b) == lo then a else b

/-- The class bit of a pattern (R93). -/
def Fmt.classBit (f : Fmt) (x : Nat) : Nat :=
  let s := f.sign x
  if f.isNan x then (if x.testBit (f.mb - 1) then 1 else 0)
  else if f.isInf x then (if s then 2 else 9)
  else if f.mag x = 0 then (if s then 5 else 6)
  else if f.mag x / 2 ^ f.mb = 0 then (if s then 4 else 7)
  else (if s then 3 else 8)

/-- FRND (R94). -/
def Fmt.integral (f : Fmt) (rm : Round) (x : Nat) : Nat :=
  match f.fv x with
  | .nan => f.qnan
  | .inf _ => x
  | .fin s m e => if 0 ≤ e then x else f.rnd .rn false (.fin s (roundInt rm s m e) 0)

/-- The most negative value, or all ones (R97). -/
def indef (t : Ty) : Int := if t.signed then tyMin t else tyMax t

/-- Conversion to an integer type (R97). -/
def toInteger (rm : Round) (sat : Bool) (t : Ty) (y : FV) : Nat :=
  let x : Int :=
    match y with
    | .nan => if sat then 0 else indef t
    | .inf s => if sat then (if s then tyMin t else tyMax t) else indef t
    | .fin s m e =>
      let x := signedInt s (roundInt rm s m e)
      if x < tyMin t ∨ tyMax t < x then (if sat then clamp x (tyMin t) (tyMax t) else indef t) else x
  wrap x t.width

/-! ### Square root (R91) -/

/-- Add the bits 2^(i−1) to 2^0 to a root while its square stays at most `n`. -/
def isqrtBits (n : Nat) : Nat → Nat → Nat
  | 0, r => r
  | i + 1, r => isqrtBits n i (if (r + 2 ^ i) * (r + 2 ^ i) ≤ n then r + 2 ^ i else r)

/-- The integer part of a square root. -/
def isqrt (n : Nat) : Nat := isqrtBits n (n.log2 / 2 + 1) 0

/-- FSQRT (R91). -/
def fsqrtBits (rm : Round) (x : Nat) : Nat :=
  match fmtF32.fv x with
  | .nan => fmtF32.qnan
  | .inf s => if s then fmtF32.qnan else x
  | .fin s m e =>
    if m = 0 then x
    else if s then fmtF32.qnan
    else
      let k : Nat := if e % 2 = 0 then 64 else 65
      let n := m * 2 ^ k
      let r := isqrt n
      fmtF32.rndSticky rm false (.fin false (2 * r + (if r * r = n then 0 else 1)) ((e - k) / 2 - 1)) false

end Sys2Proof.Machine
end

