-- ==== Sys2Proof/Machine/Transc.lean ====
section
/-! DEFINITION. The approximating functions of R91. The exact value is enclosed between two dyadic numbers, widened by the
function's bound, and the result is one of the FP32 values in that interval: which one is a free value (DESIGN CHOICE, log entry 2). -/

namespace Sys2Proof.Machine

/-- The fixed-point unit of the enclosures is 2^-prec. -/
def prec : Nat := 192

/-- π/2 in units of 2^-320, rounded down. -/
def halfPi : Nat := 0x1921fb54442d18469898cc51701b839a252049c1114cf98e804177d4c76273644a29410f31c6809bb

/-- ln 2 in units of 2^-256, rounded down. -/
def ln2Fix : Nat := 0xb17217f7d1cf79abc9e3b39803f2f6af40f343267298b62d8a0d175b8baafa2b

/-- The FP32 pattern of a place in the order of R90. -/
def f32OfKey (k : Int) : Nat := if k < 0 then 2 ^ 31 + (-k - 1).toNat else k.toNat

/-- The place of the least FP32 value at or above lo * 2^q. -/
def keyAbove (lo q : Int) : Int :=
  let k := fmtF32.key (fmtF32.rnd .ru false (.fin (decide (lo < 0)) lo.natAbs q))
  if k = -(fmtF32.maxBits : Int) - 1 ∧ fmtF32.maxBits < fmtF32.roundMag .ru true lo.natAbs q false then k - 1 else k

/-- The place of the greatest FP32 value at or below hi * 2^q. -/
def keyBelow (hi q : Int) : Int :=
  let k := fmtF32.key (fmtF32.rnd .rd false (.fin (decide (hi < 0)) hi.natAbs q))
  if k = fmtF32.maxBits ∧ fmtF32.maxBits < fmtF32.roundMag .rd false hi.natAbs q false then k + 1 else k

/-- One FP32 value in [lo, hi] * 2^q, chosen by the selector of function `fn` at operand `a` (R86, R91). A value past the
largest finite one counts as the infinity. -/
def pickWithin (fn a : Nat) (lo hi q : Int) : Nat :=
  let k := keyAbove lo q
  f32OfKey (k + (Config.approxSel fn (BitVec.ofNat 32 a) % ((keyBelow hi q - k).toNat + 1) : Nat))

/-- The exponent of one ulp at a magnitude of lo or hi (R87's helpers). -/
def ulpExp (lo hi q : Int) : Int := max ((max lo.natAbs hi.natAbs).log2 + q - 23) (-149)

/-- A result within `k` ulp of a value in [lo, hi] * 2^-prec. -/
def withinUlp (fn a k : Nat) (lo hi : Int) : Nat :=
  let err : Int := (k * 2 ^ (ulpExp lo hi (-(prec : Int)) + prec).toNat : Nat)
  pickWithin fn a (lo - err) (hi + err) (-(prec : Int))

/-- A result within 2^-22 of a value in [lo, hi] * 2^-prec. -/
def withinAbs (fn a : Nat) (lo hi : Int) : Nat :=
  let err : Int := (2 ^ (prec - 22) : Nat)
  pickWithin fn a (lo - err) (hi + err) (-(prec : Int))

/-- An infinite result of an entry with SAT (R91). -/
def satInf (sat : Bool) (x : Nat) : Nat := if sat && fmtF32.isInf x then fmtF32.signed (fmtF32.sign x) fmtF32.maxBits else x

/-- Whether m is a power of two. -/
def isPow2 (m : Nat) : Bool := m != 0 && 2 ^ m.log2 == m

/-- FRCP of a finite nonzero magnitude, enclosed: 1 / (m * 2^e). -/
def frcpBits (sat : Bool) (x : Nat) : Nat :=
  match fmtF32.fv x with
  | .nan => fmtF32.qnan
  | .inf s => fmtF32.signed s 0
  | .fin s m e =>
    satInf sat (
      if m = 0 then fmtF32.signed s fmtF32.infBits
      else if (m.log2 : Int) + e < -128 then fmtF32.signed s fmtF32.infBits
      else
        let exact := fmtF32.roundMag .rz false 1 (-(m.log2 : Int) - e) false
        if isPow2 m && decide (exact ≤ fmtF32.maxBits) then fmtF32.signed s exact
        else
          -- 1/a in units of 2^-prec
          let lo := if 0 ≤ (prec : Int) - e then 2 ^ ((prec : Int) - e).toNat / m else 0
          let err := 2 ^ (ulpExp lo (lo + 1) (-(prec : Int)) + prec).toNat
          -- above 2^126 the result is no normal number
          let hi := if 126 ≤ (m.log2 : Int) + e then min (lo + 1 + err) (2 ^ (prec - 126) - 1) else lo + 1 + err
          if s then pickWithin 0 x (-(hi : Int)) (-((lo : Int) - err)) (-(prec : Int))
          else pickWithin 0 x ((lo : Int) - err) hi (-(prec : Int)))

/-- FRSQ. -/
def frsqBits (sat : Bool) (x : Nat) : Nat :=
  match fmtF32.fv x with
  | .nan => fmtF32.qnan
  | .inf s => if s then fmtF32.qnan else 0
  | .fin s m e =>
    satInf sat (
      if m = 0 then fmtF32.signed s fmtF32.infBits
      else if s then fmtF32.qnan
      else if isPow2 m && ((m.log2 : Int) + e) % 2 == 0 then
        fmtF32.rnd .rn false (.fin false 1 (-(((m.log2 : Int) + e) / 2)))
      else
        -- 1/√a = √(2^(2 prec) / a) in units of 2^-prec
        let n := if 0 ≤ 2 * (prec : Int) - e then 2 ^ (2 * (prec : Int) - e).toNat / m else 0
        let r := isqrt n
        withinUlp 1 x 2 r (r + 2))

/-- e^(r / 2^prec) − 1 in units of 2^-prec by its series, for r below 2^prec: a lower bound, short by less than 2^10
units. -/
def expSeries (r : Nat) : Nat → Nat → Nat → Nat
  | 0, _, _ => 0
  | n + 1, i, t =>
    let t' := t * r / 2 ^ prec / i
    t' + expSeries r n (i + 1) t'

/-- 2^(frac / 2^prec) in units of 2^-prec, a lower bound, short by less than 2^12 units. -/
def exp2Frac (frac : Nat) : Nat := 2 ^ prec + expSeries (frac * ln2Fix / 2 ^ 256) 64 1 (2 ^ prec)

/-- FEX2. -/
def fex2Bits (sat : Bool) (x : Nat) : Nat :=
  match fmtF32.fv x with
  | .nan => fmtF32.qnan
  | .inf s => if s then 0 else satInf sat fmtF32.infBits
  | .fin s m e =>
    if m = 0 then 0x3F800000
    else
      let big := decide (0 ≤ (m.log2 : Int) + e - 8)  -- |a| ≥ 256
      if big then (if s then 0 else satInf sat fmtF32.infBits)
      else
        -- a in units of 2^-prec, rounded down
        let v := signedInt s m
        let fix : Int := if 0 ≤ e + prec then v * (2 ^ (e + prec).toNat : Nat) else v / (2 ^ (-(e + prec)).toNat : Nat)
        let i : Int := fix / (2 ^ prec : Nat)
        let frac := (fix % (2 ^ prec : Nat)).toNat
        let whole := frac == 0 && (decide (0 ≤ e + prec))
        if 128 ≤ i then satInf sat fmtF32.infBits
        else if i < -150 then 0
        else if whole && decide (-149 ≤ i ∧ i ≤ 127) then fmtF32.rnd .rn false (.fin false 1 i)
        else
          let t : Nat := exp2Frac frac
          let q : Int := i - prec
          let hi : Nat := t + 2 ^ 16
          let u := ulpExp t hi q
          -- widen by two ulp, in units of 2^min(q, u)
          let p := min q u
          let unit : Int := (2 ^ (q - p).toNat : Nat)
          let err : Int := (2 * 2 ^ (u - p).toNat : Nat)
          satInf sat (pickWithin 2 x (t * unit - err) (hi * unit + err) p)

/-- The first bits after the point of log₂ of f / 2^prec, for f in [2^prec, 2^(prec+1)), by repeated squaring. -/
def log2Bits : Nat → Nat → Nat → Nat
  | 0, _, acc => acc
  | n + 1, f, acc =>
    let g := f * f / 2 ^ prec
    if 2 ^ (prec + 1) ≤ g then log2Bits n (g / 2) (2 * acc + 1) else log2Bits n g (2 * acc)

/-- FLG2. -/
def flg2Bits (x : Nat) : Nat :=
  match fmtF32.fv x with
  | .nan => fmtF32.qnan
  | .inf s => if s then fmtF32.qnan else x
  | .fin s m e =>
    if m = 0 then fmtF32.signed true fmtF32.infBits
    else if s then fmtF32.qnan
    else
      let i : Int := (m.log2 : Int) + e
      if isPow2 m then fmtF32.rnd .rn false (.fin (decide (i < 0)) i.natAbs 0)
      else
        let f := m * 2 ^ (prec - m.log2)
        let lo : Int := (i * (2 ^ 64 : Nat) + (log2Bits 64 f 0 : Nat)) * (2 ^ (prec - 64) : Nat)
        let hi : Int := lo + (2 ^ (prec - 62) : Nat)
        if i = 0 ∨ i = -1 then withinAbs 3 x lo hi else withinUlp 3 x 2 lo hi

/-- The sine series (odd = true) or cosine series of r / 2^prec with r below 2^(prec+1), in units of 2^-prec. -/
def trigSeries (r2 : Nat) : Nat → Nat → Int → Int
  | 0, _, t => t
  | n + 1, i, t => t + trigSeries r2 n (i + 2) (-(t * r2 / (2 ^ prec : Nat)) / ((i * (i + 1) : Nat) : Int))

/-- Sine of a quadrant and a remainder in units of 2^-prec. -/
def sinQuad (k r : Nat) : Int :=
  let r2 := r * r / 2 ^ prec
  let sn := trigSeries r2 40 2 r
  let cs := trigSeries r2 40 1 (2 ^ prec : Nat)
  match k % 4 with
  | 0 => sn
  | 1 => cs
  | 2 => -sn
  | _ => -cs

/-- The sine of m * 2^e advanced by `k` quadrants, enclosed within 2^-100. -/
def sinEnclose (s : Bool) (m : Nat) (e : Int) (k : Nat) : Int × Int :=
  let n := if 0 ≤ e + 320 then m * 2 ^ (e + 320).toNat else m / 2 ^ (-(e + 320)).toNat
  let quad := n / halfPi
  let rem := (n % halfPi) / 2 ^ (320 - prec)
  -- sin(−a) = −sin a and cos(−a) = cos a
  let v := sinQuad (quad + k) rem
  let v := if s && k == 0 then -v else v
  (v - (2 ^ (prec - 100) : Nat), v + (2 ^ (prec - 100) : Nat))

/-- FSIN. -/
def fsinBits (x : Nat) : Nat :=
  match fmtF32.fv x with
  | .nan | .inf _ => fmtF32.qnan
  | .fin s m e =>
    if m = 0 ∨ (m.log2 : Int) + e < -12 then x
    else
      let (lo, hi) := sinEnclose s m e 0
      withinAbs 4 x lo hi

/-- FCOS. -/
def fcosBits (x : Nat) : Nat :=
  match fmtF32.fv x with
  | .nan | .inf _ => fmtF32.qnan
  | .fin s m e =>
    if m = 0 then 0x3F800000
    else
      let (lo, hi) := sinEnclose s m e 1
      withinAbs 5 x lo hi

/-- tanh(m * 2^e) for a magnitude between 2^-12 and 9.5, enclosed: (E − 1) / (E + 1) with E = e^(2a). -/
def tanhEnclose (m : Nat) (e : Int) : Nat × Nat :=
  let x := if 0 ≤ e + 1 + prec then m * 2 ^ (e + 1 + prec).toNat else m / 2 ^ (-(e + 1 + prec)).toNat
  let ln2 := ln2Fix / 2 ^ (256 - prec)
  let k := x / ln2
  let t := (2 ^ prec + expSeries (x % ln2) 64 1 (2 ^ prec)) * 2 ^ k
  let hi := t + 2 ^ (k + 16)
  ((t - 2 ^ (k + 16) - 2 ^ prec) * 2 ^ prec / (t - 2 ^ (k + 16) + 2 ^ prec), (hi - 2 ^ prec) * 2 ^ prec / (hi + 2 ^ prec) + 1)

/-- FTANH. -/
def ftanhBits (x : Nat) : Nat :=
  match fmtF32.fv x with
  | .nan => fmtF32.qnan
  | .inf s => fmtF32.signed s 0x3F800000
  | .fin s m e =>
    if m = 0 ∨ (m.log2 : Int) + e < -12 then x
    else if 0x41180000 ≤ fmtF32.mag x then fmtF32.signed s 0x3F800000
    else
      let (lo, hi) := tanhEnclose m e
      if s then withinUlp 6 x 2 (-(hi : Int)) (-(lo : Int)) else withinUlp 6 x 2 lo hi

end Sys2Proof.Machine
end

