-- ==== Sys2Proof/Machine/Float.lean ====
section
/-! DEFINITION. Floating-point instructions, opcodes 0x20 to 0x35 (R78 to R100). -/

namespace Sys2Proof.Machine

/-- The exact results of R89. -/
def faddV (rm : Round) (a b : FV) : FV := a.add rm b
def fsubV (rm : Round) (a b : FV) : FV := a.add rm b.neg
def ffmaV (rm : Round) (a b c : FV) : FV := (a.mul b).add rm c

/-- An entry that rounds an exact function of A and B once (R89). -/
def State.float2 (s : State) (f : Alu) (g : FV → FV → FV) : Out :=
  let k := tyFmt f.ty
  s.performAlu f 32 fun e l => k.rnd f.rm f.sat (g (k.fv (e.a f k.width l)) (k.fv (e.b f k.width l)))

/-- FADD (R89). -/
def execFadd (f : Alu) (s : State) : Out := s.float2 f (faddV f.rm)
/-- FSUB (R89). -/
def execFsub (f : Alu) (s : State) : Out := s.float2 f (fsubV f.rm)
/-- FMUL (R89). -/
def execFmul (f : Alu) (s : State) : Out := s.float2 f FV.mul
/-- FFMA (R89). -/
def execFfma (f : Alu) (s : State) : Out :=
  let k := tyFmt f.ty
  s.performAlu f 32 fun e l =>
    k.rnd f.rm f.sat (ffmaV f.rm (k.fv (e.a f k.width l)) (k.fv (e.b f k.width l)) (k.fv (e.c f k.width l)))

/-- FMIN (R90). -/
def execFmin (f : Alu) (s : State) : Out :=
  let k := tyFmt f.ty
  s.performAlu f 32 fun e l => k.minmax true (f.sub == 1) (e.a f k.width l) (e.b f k.width l)
/-- FMAX (R90). -/
def execFmax (f : Alu) (s : State) : Out :=
  let k := tyFmt f.ty
  s.performAlu f 32 fun e l => k.minmax false (f.sub == 1) (e.a f k.width l) (e.b f k.width l)

/-- FRCP (R91). -/
def execFrcp (f : Alu) (s : State) : Out := s.performAlu f 32 fun e l => frcpBits f.sat (e.a f 32 l)
/-- FRSQ (R91). -/
def execFrsq (f : Alu) (s : State) : Out := s.performAlu f 32 fun e l => frsqBits f.sat (e.a f 32 l)
/-- FSQRT (R91). -/
def execFsqrt (f : Alu) (s : State) : Out := s.performAlu f 32 fun e l => fsqrtBits f.rm (e.a f 32 l)
/-- FEX2 (R91). -/
def execFex2 (f : Alu) (s : State) : Out := s.performAlu f 32 fun e l => fex2Bits f.sat (e.a f 32 l)
/-- FLG2 (R91). -/
def execFlg2 (f : Alu) (s : State) : Out := s.performAlu f 32 fun e l => flg2Bits (e.a f 32 l)
/-- FSIN (R91). -/
def execFsin (f : Alu) (s : State) : Out := s.performAlu f 32 fun e l => fsinBits (e.a f 32 l)
/-- FCOS (R91). -/
def execFcos (f : Alu) (s : State) : Out := s.performAlu f 32 fun e l => fcosBits (e.a f 32 l)
/-- FTANH (R91). -/
def execFtanh (f : Alu) (s : State) : Out := s.performAlu f 32 fun e l => ftanhBits (e.a f 32 l)

/-- FCMP (R92). -/
def execFcmp (f : Alu) (s : State) : Out :=
  let k := tyFmt f.ty
  s.performPred f fun e l => condHolds f.sub.toNat (k.rel (e.a f k.width l) (e.b f k.width l))

/-- FCLASS (R93). -/
def execFclass (f : Alu) (s : State) : Out :=
  let k := tyFmt f.ty
  s.performPred f fun e l => (e.b32 f l).testBit (k.classBit (e.a f k.width l))

/-- FRND (R94). -/
def execFrnd (f : Alu) (s : State) : Out :=
  let k := tyFmt f.ty
  s.performAlu f 32 fun e l => k.integral f.rm (e.a f k.width l)

/-- The destination type of a CVT (R95). -/
def cvtDst (f : Alu) : Ty := (Ty.ofCode f.sub.toNat).getD .f32

/-- The exact value of a CVT source (R96). -/
def cvtSource (t : Ty) (x : Nat) : FV :=
  if tyIsFloat t then (tyFmt t).fv x else .fin (decide (tyVal t x < 0)) (tyVal t x).natAbs 0

/-- Whether a conversion widens (R96): RM and SAT then change nothing, an infinity included (DEDUCED, log entry 9). -/
def widens (src dst : Ty) : Bool := tyIsFloat src && tyIsFloat dst && decide (src.width < dst.width)

/-- One conversion (R96, R97). -/
def convert (rm : Round) (sat : Bool) (src dst : Ty) (x : Nat) : Nat :=
  if tyIsFloat dst then (tyFmt dst).rnd rm (sat && !widens src dst) (cvtSource src x)
  else toInteger rm sat dst (cvtSource src x)

/-- CVT (R95 to R97): in the uniform form the result is filled by its destination type (R57). -/
def execCvt (f : Alu) (s : State) : Out :=
  let dst := cvtDst f
  s.performAlu f dst.width fun e l => fill dst (convert f.rm f.sat f.ty dst (e.a f f.ty.width l))

/-- FPACK (R98): A and B are read as `.f32`. -/
def execFpack (f : Alu) (s : State) : Out :=
  let k := tyFmt f.ty
  s.performAlu f 32 fun e l =>
    let x := k.rnd f.rm f.sat (fmtF32.fv (e.a f 32 l))
    let y := k.rnd f.rm f.sat (fmtF32.fv (e.b f 32 l))
    if k.width = 16 then y * 2 ^ 16 + x
    else
      let z := e.c f 32 l
      if f.sub = 0 then z / 2 ^ 16 * 2 ^ 16 + y * 256 + x else (y * 256 + x) * 2 ^ 16 + z % 2 ^ 16

/-- Both 16-bit elements of a pair from a function of the element (R9). -/
def pairOf (g : Nat → Nat) : Nat := g 1 * 2 ^ 16 + g 0

/-- Element `k` of a packed pair. -/
def halfOf (x k : Nat) : Nat := x / 2 ^ (16 * k) % 65536

/-- HPADD (R99). -/
def execHpadd (f : Alu) (s : State) : Out :=
  let k := tyFmt f.ty
  s.performAlu f 32 fun e l => pairOf fun i =>
    k.rnd f.rm f.sat (faddV f.rm (k.fv (halfOf (e.a f 32 l) i)) (k.fv (halfOf (e.b f 32 l) i)))
/-- HPMUL (R99). -/
def execHpmul (f : Alu) (s : State) : Out :=
  let k := tyFmt f.ty
  s.performAlu f 32 fun e l => pairOf fun i =>
    k.rnd f.rm f.sat (FV.mul (k.fv (halfOf (e.a f 32 l) i)) (k.fv (halfOf (e.b f 32 l) i)))
/-- HPFMA (R99). -/
def execHpfma (f : Alu) (s : State) : Out :=
  let k := tyFmt f.ty
  s.performAlu f 32 fun e l => pairOf fun i =>
    k.rnd f.rm f.sat (ffmaV f.rm (k.fv (halfOf (e.a f 32 l) i)) (k.fv (halfOf (e.b f 32 l) i))
      (k.fv (halfOf (e.c f 32 l) i)))

end Sys2Proof.Machine
end

