-- ==== Sys2Proof/Machine/Cross.lean ====
section
/-! DEFINITION. Packed 16-bit integer instructions, opcodes 0x40 to 0x47 (R117), and cross-lane instructions, opcodes 0x50
to 0x58 (R104 to R119). -/

namespace Sys2Proof.Machine

/-- T16 of R109's helpers. -/
def elemTy (t : Ty) : Ty := if t.signed then .i16 else .n16

/-- An entry on both elements of A and B (R117). -/
def State.packed2 (s : State) (f : Alu) (g : Nat → Nat → Nat) : Out :=
  s.performAlu f 32 fun e l => pairOf fun k => g (halfOf (e.a f 32 l) k) (halfOf (e.b f 32 l) k)

/-- ADD2 (R117). -/
def execAdd2 (f : Alu) (s : State) : Out :=
  let t := elemTy f.ty
  s.packed2 f fun a b => finish f.sat t (tyVal t a + tyVal t b)
/-- SUB2 (R117). -/
def execSub2 (f : Alu) (s : State) : Out :=
  let t := elemTy f.ty
  s.packed2 f fun a b => finish f.sat t (tyVal t a - tyVal t b)
/-- MAX2 (R117). -/
def execMax2 (f : Alu) (s : State) : Out :=
  let t := elemTy f.ty
  s.packed2 f fun a b => if tyVal t a ≤ tyVal t b then b else a
/-- MIN2 (R117). -/
def execMin2 (f : Alu) (s : State) : Out :=
  let t := elemTy f.ty
  s.packed2 f fun a b => if tyVal t a ≤ tyVal t b then a else b
/-- SEL2 (R117): bit 15 of C's element chooses A. -/
def execSel2 (f : Alu) (s : State) : Out :=
  s.performAlu f 32 fun e l => pairOf fun k =>
    if (halfOf (e.c f 32 l) k).testBit 15 then halfOf (e.a f 32 l) k else halfOf (e.b f 32 l) k
/-- CMP2 (R117). -/
def execCmp2 (f : Alu) (s : State) : Out :=
  let t := elemTy f.ty
  s.packed2 f fun a b => if condHolds f.sub.toNat (relInt (tyVal t a) (tyVal t b)) then 0xFFFF else 0
/-- SHL2 (R117): the count is never reduced. -/
def execShl2 (f : Alu) (s : State) : Out :=
  s.packed2 f fun a n => if 16 ≤ n then 0 else lowBits (a * 2 ^ n) 16
/-- SHR2 (R117): copies of bit 15 for a signed type. -/
def execShr2 (f : Alu) (s : State) : Out :=
  let t := elemTy f.ty
  s.packed2 f fun a n => wrap (tyVal t a / (2 ^ min n 16 : Nat)) 16

/-! ### Reads of other lanes (R105) -/

/-- `xread(X, j)`: a dead or absent lane reads 0. -/
def xread (t : Thread) (i w j : Nat) : Nat :=
  if t.live.getLsbD j then (if w = 64 then (t.regs.vec64 i j).toNat else (t.regs.vec i j).toNat) else 0

/-- Each active lane takes A from a source lane, or its own value where there is none (R111). -/
def State.exchange (s : State) (f : Alu) (src : Nat → Option Nat) : Out :=
  let w := f.ty.width
  let e := s.env
  s.performRegs f.guard (ilen f.ext) fun act t =>
    t.regs.putLanes f.d.toNat w act fun l =>
      match src l with
      | some j => xread t f.a.toNat w j
      | none => e.a f w l

/-- SHFL (R108, R111). -/
def execShfl (f : Alu) (s : State) : Out :=
  let width := s.grp.width
  let e := s.env
  s.exchange f fun l =>
    let b := e.b32 f l
    match f.sub.toNat with
    | 0 => some (b % width)
    | 1 => if b ≤ l then some (l - b) else none
    | 2 => if l + b < width then some (l + b) else none
    | _ => some ((l ^^^ b) % width)

/-- QSWP (R111): `.h` 1, `.v` 2, `.d` 3. -/
def execQswp (f : Alu) (s : State) : Out := s.exchange f fun l => some (l ^^^ (f.sub.toNat + 1))

/-- QBCAST (R111). -/
def execQbcast (f : Alu) (s : State) : Out := s.exchange f fun l => some (4 * (l / 4) + f.sub.toNat)

/-- VOTE (R112). -/
def execVote (f : Alu) (s : State) : Out :=
  s.performRegs f.guard (ilen f.ext) fun act t =>
    let p := t.regs.pred f.a.toNat
    let all (b : Bool) : Mask := if b then 0xFFFFFFFF else 0
    match f.sub.toNat with
    | 0 => t.regs.setPred f.d.toNat act (all (act &&& p != 0))
    | 1 => t.regs.setPred f.d.toNat act (all (act &&& ~~~p == 0))
    | 2 => t.regs.setScal f.d.toNat ((act &&& p).setWidth 64)
    | _ =>
      let first := t.regs.vec f.a.toNat (lowestLane act)
      t.regs.setPred f.d.toNat act (all ((lanesOf act).all fun l => t.regs.vec f.a.toNat l == first))

/-- MATCH (R113). -/
def execMatchOp (f : Alu) (s : State) : Out :=
  let w := f.ty.width
  let e := s.env
  s.performRegs f.guard (ilen f.ext) fun act t =>
    let same (l : Nat) : Mask := maskOf fun j => act.getLsbD j && e.a f w j == e.a f w l
    t.regs.putVec f.d.toNat act fun l => if f.sub = 0 then same l else if same l == act then same l else 0

/-! ### Reductions and scans (R115, R116) -/

/-- One step of a reduction on two 32-bit patterns; an integer addition is made exactly elsewhere. -/
def redStep (t : Ty) (op a b : Nat) : Nat :=
  match op with
  | 0 => if t == .f32 then fmtF32.rnd .rn false (faddV .rn (fmtF32.fv a) (fmtF32.fv b)) else wrap (tyVal t a + tyVal t b) 32
  | 1 => if t == .f32 then fmtF32.minmax true false a b else if tyVal t a ≤ tyVal t b then a else b
  | 2 => if t == .f32 then fmtF32.minmax false false a b else if tyVal t a ≤ tyVal t b then b else a
  | 3 => a &&& b
  | 4 => a ||| b
  | _ => a ^^^ b

/-- Combine values that may be missing. -/
def combine (g : Nat → Nat → Nat) (a b : Option Nat) : Option Nat :=
  match a, b with
  | some x, some y => some (g x y)
  | some x, none => some x
  | none, y => y

/-- One level of the tree of R115: neighbours at distance 2^k. -/
def treeLevel (g : Nat → Nat → Nat) : List (Option Nat) → List (Option Nat)
  | a :: b :: t => combine g a b :: treeLevel g t
  | l => l

/-- The tree of R115 over 2^k nodes. -/
def treeFold (g : Nat → Nat → Nat) : Nat → List (Option Nat) → Option Nat
  | 0, l => (l.head?).getD none
  | k + 1, l => treeFold g k (treeLevel g l)

/-- The exact sum of values of a type. -/
def sumVals (t : Ty) (xs : List Nat) : Int := xs.foldl (fun n x => n + tyVal t x) 0

/-- A reduction of the values of the active lanes, lane order given (R115). -/
def reduce (f : Alu) (act : Mask) (x : Nat → Nat) : Nat :=
  let op := f.sub.toNat % 8
  if f.ty == .f32 && op == 0 then
    let nodes := (List.range 32).map fun l => if act.getLsbD l then some (x l) else none
    fmtF32.rnd .rn false (fmtF32.fv ((treeFold (redStep .f32 0) 5 nodes).getD 0))
  else
    let xs := (lanesOf act).map x
    if op = 0 then finish f.sat f.ty (sumVals f.ty xs)
    else match xs with
      | [] => 0
      | y :: ys => ys.foldl (redStep f.ty op) y

/-- GRED (R115): the tree of 16 lanes is the lower half of that of 32. -/
def execGred (f : Alu) (s : State) : Out :=
  s.performRegs f.guard (ilen f.ext) fun act t =>
    t.regs.setScal f.d.toNat (BitVec.ofNat 64 (fill f.ty (reduce f act fun l => (t.regs.vec f.a.toNat l).toNat)))

/-- The identity of an exclusive scan (R116). -/
def scanIdentity (t : Ty) (op : Nat) : Nat :=
  match op with
  | 1 => if t == .f32 then 0x7F800000 else if t == .i32 then 0x7FFFFFFF else 0xFFFFFFFF
  | 2 => if t == .f32 then 0xFF800000 else if t == .i32 then 0x80000000 else 0
  | 3 => 0xFFFFFFFF
  | _ => 0

/-- The scan of R116 over the lanes in ascending order: an integer sum is kept exactly, and finished where it is
written. -/
def scanLanes (f : Alu) (excl : Bool) (x : Nat → Nat) : List Nat → Option (Nat × Int) → Tab Nat
  | [], _ => []
  | l :: t, acc =>
    let op := f.sub.toNat % 8
    let out (a : Nat × Int) : Nat := if op = 0 ∧ f.ty != .f32 then finish f.sat f.ty a.2 else a.1
    let next : Nat × Int :=
      match acc with
      | none => (x l, tyVal f.ty (x l))
      | some (p, n) => (redStep f.ty op p (x l), n + tyVal f.ty (x l))
    let y := if excl then (match acc with | none => scanIdentity f.ty op | some a => out a) else out next
    (l, y) :: scanLanes f excl x t (some next)

/-- GSCAN (R116). -/
def execGscan (f : Alu) (s : State) : Out :=
  s.performRegs f.guard (ilen f.ext) fun act t =>
    let ys := scanLanes f (f.sub.getLsbD 3) (fun l => (t.regs.vec f.a.toNat l).toNat) (lanesOf act) none
    t.regs.putVec f.d.toNat act fun l => BitVec.ofNat 32 (Tab.get 0 ys l)

/-! ### LGET and LPUT (R114) -/

/-- The lane index of LGET and LPUT: a scalar register, an immediate or a constant slot, modulo W. -/
def State.laneIndex (s : State) (f : Alu) : Nat := s.env.opnd f.b true false 64 0 % s.grp.width

/-- LGET (R114): the raw register of the lane, of the interrupted thread in a handler (R335; DEDUCED, log entry 45). -/
def execLget (f : Alu) (s : State) : Out :=
  let n := s.laneIndex f
  let r := s.grp.outer.regs
  s.performRegs f.guard (ilen f.ext) fun _ t =>
    t.regs.setScal f.d.toNat
      (if f.ty.wide then r.vec64 f.a.toNat n else (r.vec f.a.toNat n).setWidth 64)

/-- LPUT (R114): an absent lane is left alone (DEDUCED, log entry 45). -/
def execLput (f : Alu) (s : State) : Out :=
  let n := s.laneIndex f
  s.perform f.guard (ilen f.ext) fun _ s =>
    let x := s.grp
    let o := x.outer
    let v := s.th.regs.scal f.a.toNat
    if (s.absentOf x).getLsbD n then s.advance (ilen f.ext)
    else
      let r := if f.ty.wide then o.regs.setVec64 f.d.toNat n v else o.regs.setVec f.d.toNat n (v.setWidth 32)
      (s.setGrp (x.setOuter { o with regs := r })).advance (ilen f.ext)

end Sys2Proof.Machine
end

