-- ==== Sys2Proof/Machine/Atomics.lean ====
section
/-! DEFINITION. Atomics, opcodes 0x90 to 0x96 (R176, R203 to R208). -/

namespace Sys2Proof.Machine

/-- The new value of an atomic from the old value and the data (R204). -/
def aopValue (op : AOp) (t : Ty) (o x : Nat) : Nat :=
  let w := t.width
  match op with
  | .add =>
    match t with
    | .f32 => fmtF32.rnd .rn false (faddV .rn (fmtF32.fv o) (fmtF32.fv x))
    | .f16x2 | .bf16x2 => pairOf fun k =>
        (tyFmt t).rnd .rn false (faddV .rn ((tyFmt t).fv (halfOf o k)) ((tyFmt t).fv (halfOf x k)))
    | _ => (o + x) % 2 ^ w
  | .min => if t == .f32 then fmtF32.minmax true false o x else if tyVal t o ≤ tyVal t x then o else x
  | .max => if t == .f32 then fmtF32.minmax false false o x else if tyVal t o ≤ tyVal t x then x else o
  | .and => o &&& x
  | .or => o ||| x
  | .xor => o ^^^ x
  | .exch => x
  | .inc => if x ≤ o then 0 else o + 1
  | .dec => if o = 0 ∨ x < o then x else o - 1

/-- What a PCIe AtomicOp can do on a host page (R206). -/
def hostAtomic (cas : Bool) (op : AOp) (t : Ty) : Bool :=
  cas || op == .exch || (op == .add && [Ty.i32, .n32, .i64, .n64].contains t)

/-- The target of an atomic, with the checks of R207 items 5 and 6. -/
def State.atomTarget (s : State) (f : AtomOp) (cas : Bool) (r : Except Failed Target) : Except Failed Target :=
  match r with
  | .error e => .error e
  | .ok t =>
    if spaceBit t.loc == 3 && !(s.atomicOps.contains (s.fnOf (s.ctxOf s.cur)) && hostAtomic cas f.aop f.ty) then
      .error ⟨fcPageProtection, BitVec.ofNat 64 t.va, t.unsup⟩
    else if s.unreach t.loc then .error ⟨fcFabricUnreachable, BitVec.ofNat 64 t.va, t.unsup⟩
    else .ok t

/-- The place in coherence order of the newest store to a byte (0 for the initial value). -/
def State.homeSeq (s : State) (a : Nat) : Nat :=
  s.hist.foldl (fun q e => if (histByte e a).isSome then e.seq else q) 0

/-- The group learns the releases that happen before the newest value of some bytes (R170). -/
def State.learnHome (s : State) (a n : Nat) : State :=
  s.learn s.cur ((List.range n).flatMap fun i => s.relsOf s.grp.core (s.homeSeq (a + i)))

/-- An atomic at a home that reaches it clears NL of its frame group (R161). -/
def State.touchHome (s : State) (a : Nat) : State := { s with frames := clearNL s.frames a }

/-- One lane's read and write at the home (R205): the old value, or none where the data are poisoned (R208). -/
def State.atomLane (s : State) (f : AtomOp) (t : Target) (n : Nat) (cas : Bool) (data new : Nat) (rels : List Nat) :
    Option Nat × State :=
  let old := s.homeBytes t.loc n
  if anyPoison old then (none, s)
  else
    let o := mVal old
    let s := (s.learnHome t.loc n).touchHome t.loc
    let write (v : Nat) : State := s.homeStore s.cur t.loc (leMBytes n v) (scopeRank f.scope) rels
    if cas then (some o, if o = data then write new else s) else (some o, write (aopValue f.aop f.ty o data))

/-- Every lane's read and write, in ascending lane order. -/
def State.atomLanes (s : State) (f : AtomOp) (n : Nat) (cas : Bool) (data new : Nat → Nat) (rels : List Nat) :
    List (Nat × Target) → List (Nat × Option Nat) × State
  | [] => ([], s)
  | (l, t) :: rest =>
    let (o, s) := s.atomLane f t n cas (data l) (new l) rels
    let (os, s) := s.atomLanes f n cas data new rels rest
    ((l, o) :: os, s)

/-- A data operand of an atomic: a register or pair of the lane, or a scalar in the uniform form. -/
def atomData (r : Regs) (i n : Nat) (su : Bool) (l : Nat) : Nat :=
  if su then (r.scal i).toNat % 2 ^ (8 * n) else if n = 8 then (r.vec64 i l).toNat else (r.vec i l).toNat

/-- Write the old values (R205): a scalar takes a 32-bit result as R57 fills it. -/
def Regs.putOld (r : Regs) (d : Nat) (t : Ty) (su : Bool) (os : List (Nat × Option Nat)) : Regs :=
  os.foldl (fun r (l, o) =>
    match o with
    | none => r
    | some v =>
      if su then r.setScal d (BitVec.ofNat 64 (fill t v))
      else if t.wide then r.setVec64 d l (BitVec.ofNat 64 v)
      else r.setVec d l (BitVec.ofNat 32 v)) r

/-- What is placed before the lanes of an atomic perform (R205): an ordered atomic's release completes. Whether earlier
releases have completed before a relaxed one performs is open (R168). -/
def State.homesReady (s : State) (o : Order) : State :=
  if o == .rel || o == .ar || o == .sc then s.completeAll s.grp.core else s

/-- The end of an atomic (R205, R208): results, acquire, and then the lanes that met poison are killed. -/
def State.atomEnd (s : State) (a : AtomRun) : State :=
  let f := a.f
  let s := (s.waitHere .none).countSectors a.sectors false
  let s := if a.red then s else s.setRegs (s.th.regs.putOld f.d.toNat f.ty f.su a.old)
  let s := (s.orderAcquire f.order (scopeRank f.scope) f.mask).advance 16
  let bad := a.old.filter fun (_, o) => o.isNone
  if bad.isEmpty then s else s.kill (if f.su then s.grp.allLanes else lanesMask (bad.map (·.1)))

/-- The next lane of an atomic performs at its home (R205). Another agent's atomic may come before the lane after it. A package
that has become unreachable since the issue raises FABRIC_UNREACHABLE for the first lane not delivered (R206); its lane mask is 0,
as for a uniform fault, and D of the lanes before it is not written (DESIGN CHOICE, log entry 89). -/
def State.atomNext (s : State) (a : AtomRun) : State :=
  match a.todo with
  | [] => s.atomEnd a
  | (l, va, loc) :: rest =>
    let f := a.f
    let n := f.ty.width / 8
    if s.unreach loc then (s.waitHere .none).raise 16 a.act fcFabricUnreachable (BitVec.ofNat 64 va)
    else
      let regs := s.th.regs
      let newAt := if f.su || n < 8 then f.d.toNat + 1 else f.d.toNat + 2
      let t : Target := { va := va, loc := loc, line := ⟨0, 0⟩, view := false, unsup := false }
      let (o, s) := s.atomLane f t n a.cas (atomData regs f.d.toNat n f.su l) (atomData regs newAt n f.su l) a.rels
      let a := { a with todo := rest, old := a.old ++ [(l, o)] }
      if rest.isEmpty then s.atomEnd a else s.waitHere (.lanes a)

/-- A group in the middle of an atomic performs its next lane. -/
def State.laneMove (s : State) (g : Nat) : State :=
  let s := { s with cur := g }
  match s.grp.wait with
  | .lanes a => s.atomNext a
  | _ => s

/-- The performance of an atomic whose checks have passed (R205): joins and release, and then its first lane. An ordered
atomic's release completes first. -/
def State.atomPerform (s : State) (f : AtomOp) (act : Mask) (cas red : Bool) (ts : List (Nat × Target)) : State :=
  let s := ts.foldl (fun s (_, t) => s.joinBelow s.grp.block t.va t.loc (f.ty.width / 8)) s
  match s.orderRelease f.order (scopeRank f.scope) f.mask with
  | (some va, s) => s.raise 16 act fcFabricUnreachable va
  | (none, s) =>
    let released := f.order == .rel || f.order == .ar || f.order == .sc
    let rels := if released then s.grp.known.take 1 else []
    (s.homesReady f.order).atomNext
      { f := f, cas := cas, red := red, act := act, rels := rels, todo := ts.map fun (l, t) => (l, t.va, t.loc), old := [],
          sectors := s.sectors ts }

/-- An atomic in a space (R205, R207): it aborts a region, is a commit point, and waits for a watermark (R212). -/
def State.atomic (s : State) (f : AtomOp) (sp : MSpace) (cas red : Bool) : Out :=
  s.perform f.guard 16 fun act s =>
    s.orUnsupported act fun s =>
      let s := s.flush s.cur
      let e := s.env
      let n := f.ty.width / 8
      let lanes := if f.su then [lowestLane act] else lanesOf act
      let (rs, s) := s.targets sp n .store (e.ea f.a f.vb (sp != .own) f.addr) lanes
      let rs := rs.map fun (l, r) => (l, s.atomTarget f cas r)
      match failedLanes rs with
      | [] =>
        match s.waitsOn n (passedLanes rs) with
        | [] => s.atomPerform f act cas red (passedLanes rs)
        | w => s.waitHere (.watermark w)
      | fs => s.raiseFailed 16 act f.su fs

/-- ATOM (R205). -/
def execAtom (f : AtomOp) (s : State) : Out := s.atomic f .glob false false
/-- ATOMS (R205). -/
def execAtoms (f : AtomOp) (s : State) : Out := s.atomic f .own false false
/-- ATOMP (R205). -/
def execAtomp (f : AtomOp) (s : State) : Out := s.atomic f .peer false false
/-- ACAS (R205). -/
def execAcas (f : AtomOp) (s : State) : Out := s.atomic f .glob true false
/-- ACASS (R204, R205). -/
def execAcass (f : AtomOp) (s : State) : Out := s.atomic f (if f.ps then .peer else .own) true false
/-- RED (R205). -/
def execRed (f : AtomOp) (s : State) : Out := s.atomic f .glob false true
/-- REDS (R204, R205). -/
def execReds (f : AtomOp) (s : State) : Out := s.atomic f (if f.ps then .peer else .own) false true

end Sys2Proof.Machine
end

