-- ==== Sys2Proof/Machine/Barrier.lean ====
section
/-! DEFINITION. Barriers and WAITC, opcodes 0xA0 to 0xA4, and the events that end their waits (R191 to R202). -/

namespace Sys2Proof.Machine

/-- The instance of a barrier set: the block, the launch cluster, or the grid (R191). -/
def State.barrierInst (s : State) (b : Nat) (sc : BScope) : Nat :=
  let k := s.block b
  match sc with
  | .blk => b
  | .clu => k.launch * 0x100000000 + k.clus
  | .grid => k.launch

/-- The barrier that an instruction of the executing group names. -/
def State.barrierOf (s : State) (f : BarOp) : Nat :=
  barrierKey f.scope.code.toNat (s.barrierInst s.grp.block f.scope) f.num.toNat

/-- A barrier; where its state is freed, one with no member in phase 0 (R195; DEDUCED, log entry 65). -/
def State.barrier (s : State) (k : Nat) : Barrier := Tab.get {} s.barriers k
def State.setBarrier (s : State) (k : Nat) (b : Barrier) : State := { s with barriers := s.barriers.put k b }

/-- The agent-scope rank of a barrier (R191). -/
def barrierRank (sc : BScope) : Nat :=
  match sc with
  | .blk => 1
  | .clu => 2
  | .grid => 3

/-- Whether phase `t` has completed when the current phase is `p` (R193). -/
def phaseDone (p t : Word) : Bool := decide (1 ≤ (p - t).toNat ∧ (p - t).toNat < 2 ^ 31)

/-- An arrival (R192, R194): no fault and the state, or the fault that it raises. -/
def State.arrive (s : State) (f : BarOp) : Option (Nat × BitVec 64) × State :=
  let k := s.barrierOf f
  let b := s.barrier k
  if !b.members.contains s.cur || b.arrived.contains s.cur then (some (fcBarrierOverrun, 0), s)
  else
    let (lost, m, s) := s.release s.cur (barrierRank f.scope) f.mask
    match lost with
    | some va => (some (fcFabricUnreachable, va), s)
    | none => (none, s.setBarrier k { b with arrived := b.arrived ++ [s.cur], rels := b.rels ++ [m] })

/-- A completed phase observed by a group: each arrival happens-before, and an acquire (R170, R192). -/
def State.observePhase (s : State) (g key rank : Nat) (mask : BitVec 4) : State :=
  (s.learn g (s.barrier key).known).acquire g rank mask

/-- BARV (R199). -/
def execBarv (f : BarOp) (s : State) : Out :=
  s.perform Guard.always 16 fun act s =>
    s.orUnsupported act fun s =>
      let s := s.flush s.cur
      let t := (s.barrier (s.barrierOf f)).phase
      match s.arrive f with
      | (some (c, va), s) => s.raise 16 act c va
      | (none, s) => (s.setRegs (s.th.regs.setScal f.d.toNat (t.setWidth 64))).advance 16

/-- Wait for phase `t`, or go on with the acquire when it has completed. -/
def State.awaitPhase (s : State) (f : BarOp) (t : Word) : State :=
  let k := s.barrierOf f
  if phaseDone (s.barrier k).phase t then (s.observePhase s.cur k (barrierRank f.scope) f.mask).advance 16
  else (s.advance 16).waitHere (.barrier k t (barrierRank f.scope) f.mask)

/-- BARW (R199). -/
def execBarw (f : BarOp) (s : State) : Out :=
  s.perform Guard.always 16 fun act s =>
    s.orUnsupported act fun s => (s.flush s.cur).awaitPhase f ((s.th.regs.scal f.a.toNat).setWidth 32)

/-- BARS (R199). -/
def execBars (f : BarOp) (s : State) : Out :=
  s.perform Guard.always 16 fun act s =>
    s.orUnsupported act fun s =>
      let s := s.flush s.cur
      let t := (s.barrier (s.barrierOf f)).phase
      match s.arrive f with
      | (some (c, va), s) => s.raise 16 act c va
      | (none, s) => s.awaitPhase f t

/-- BARQ (R199): it never waits. -/
def execBarq (f : BarOp) (s : State) : Out :=
  s.perform Guard.always 16 fun act s =>
    s.orUnsupported act fun s =>
      let s := s.flush s.cur
      let k := s.barrierOf f
      let done := phaseDone (s.barrier k).phase ((s.th.regs.scal f.a.toNat).setWidth 32)
      let s := if done then s.observePhase s.cur k (barrierRank f.scope) f.mask else s
      (s.setRegs (s.th.regs.setScal f.d.toNat (if done then 1 else 0))).advance 16

/-- Whether the first completion of a grid-barrier phase in a gang slice still waits for RUNNING from another member
(R375). -/
def State.gangHeld (s : State) (k : Nat) : Bool :=
  if k / 16 % 4 != 3 then false
  else
    let c := s.ctx (s.launch (k / 64)).ctx
    let n := c.field 34 23 0
    let g := Tab.get {} s.gangs n
    (c.word 34).getLsbD 63 && !g.barrierDone && (match g.cur with
      | some z => (Config.gangMembers n).any fun m => !g.running.contains (m, z.num)
      | none => true)

/-- Note the completion of a phase of a gang context's grid barrier (R375). -/
def State.noteGang (s : State) (k : Nat) : State :=
  if k / 16 % 4 != 3 then s
  else
    let c := s.ctx (s.launch (k / 64)).ctx
    let n := c.field 34 23 0
    if (c.word 34).getLsbD 63 then
      { s with gangs := s.gangs.put n { Tab.get {} s.gangs n with barrierDone := true } }
    else s

/-- Whether the current phase of a barrier can complete (R192): not while its owner is saved (R196), nor while a gang slice
holds it (R375). -/
def State.phaseFull (s : State) (k : Nat) : Bool :=
  let b := s.barrier k
  !s.gangHeld k && !(b.members.any fun g => (s.block (s.group g).block).st == .saved) && decide (0 < b.expected) && b.arrived.length == b.expected
    && b.rels.all fun m => match s.rels.find? m with | some r => r.done | none => true

/-- BARRIER_PHASE_COMPLETE (R192, R195, R196): arrival bits clear, the phase number rises, and every group that waits for
a completed phase becomes ready with its acquire. The state of a barrier whose last member has retired is freed with the phase that
this retirement filled (R195; DEDUCED, log entry 65). It has no effect while the phase is not full (DEDUCED, log entry 49). -/
def execBarrierPhaseComplete (k : Nat) (s : State) : Out :=
  if !s.phaseFull k then .next s
  else
    let b := s.barrier k
    let learned := b.rels.flatMap fun m => m :: (match s.rels.find? m with | some r => r.known | none => [])
    let learned := learned ++ b.left
    let b := { b with arrived := [], expected := b.members.length, phase := b.phase + 1, rels := [], left := [],
                      known := b.known ++ learned.filter fun m => !b.known.contains m }
    let s := (s.setBarrier k b).noteGang k
    let s := s.groups.foldl (fun s (g, _) =>
      match (s.group g).wait with
      | .barrier key t rank mask =>
        if key == k && phaseDone b.phase t && !(s.group g).retired then
          (s.observePhase g k rank mask).modGroup g fun x => { x with wait := .none }
        else s
      | _ => s) s
    .next (if b.members.isEmpty then { s with barriers := s.barriers.erase k } else s)

/-! ### WAITC (R201, R202) -/

/-- The operations of a group that a counter counts, in issue order, joined or not (R201). -/
def State.counted (s : State) (g : Nat) (tile : Bool) : List (Nat × EngOp) :=
  (s.issuedOf g).filter fun (_, o) => o.tile == tile

/-- A counter: the operations from the first unfinished one on (R201). -/
def outstanding (os : List (Nat × EngOp)) : Nat := (os.dropWhile fun (_, o) => o.st == .finished).length

/-- Whether WAITC's limits hold: the group's loads have read their values and its stores have entered the view. Neither of those two
counters comes near 255: a load reads its value as it performs, and stores wait at most 64 instructions (R201, R323). A store in an
open region's buffer is not counted: it could enter no view before a COMMIT (DEDUCED, log entry 66). -/
def State.waitcMet (s : State) (g : Nat) (f : WaitcOp) : Bool :=
  decide (outstanding (s.counted g false) ≤ f.ncp.toNat) && decide (outstanding (s.counted g true) ≤ f.ntl.toNat)

/-- The operations that WAITC passes and joins: all but the latest that each counter has seen issued (R202), in issue order. -/
def State.passedOps (s : State) (g : Nat) (f : WaitcOp) : List Nat :=
  let all (tile : Bool) (n : Nat) : List Nat :=
    let os := s.counted g tile
    (os.take (os.length - n)).map (·.1)
  let cp := all false f.ncp.toNat
  let tl := all true f.ntl.toNat
  (s.ops.map (·.1)).filter fun o => (cp.contains o || tl.contains o) && !(s.op o).joined

/-- WAITC (R202): a commit point, and a join point of the operations that it passes. -/
def execWaitc (f : WaitcOp) (s : State) : Out :=
  s.perform Guard.always 16 fun _ s =>
    let s := s.flush s.cur
    if !s.waitcMet s.cur f then s.waitHere (.waitc f) else s.joinThen (s.passedOps s.cur f) fun s => s.advance 16

/-- WAITC_RESUME (R202): the waiting group is ready again when its limits hold. -/
def execWaitcResume (g : Nat) (s : State) : Out :=
  match (s.group g).wait with
  | .waitc f => if s.waitcMet g f then .next (s.modGroup g fun x => { x with wait := .none }) else .next s
  | _ => .next s

/-- Whether an issue would take a counter of the executing group past 255 (R201). -/
def State.counterFull (s : State) (tile : Bool) : Bool := decide (255 ≤ outstanding (s.counted s.cur tile))

end Sys2Proof.Machine
end

