-- ==== Sys2Proof/Machine/Record.lean ====
section
/-! DEFINITION. Copy records, their transform steps, and the elements that a copy moves (R215 to R221, R236). -/

namespace Sys2Proof.Machine

/-- A CONVERT step: source and destination types, rounding mode and SAT. -/
structure Conv where
  src : Ty
  dst : Ty
  rm : Round
  sat : Bool
  deriving DecidableEq, Repr

/-- An element of the current tensor: a source element by its four indices, or a FILL pattern with the number of CONVERT
steps before it. -/
inductive TVal
  | src (j : List Nat)
  | fill (bits stage : Nat)
  deriving DecidableEq, Repr

/-- The current tensor (R219): four extents, the element type, the CONVERT steps so far, and the element at an index. -/
structure Tensor where
  e : List Nat
  ty : Ty
  conv : List Conv
  val : List Nat → TVal

/-- A field of a copy record. -/
def recField (ws : List DWord) (n hi lo : Nat) : Nat := nbits ((ws[n]?).getD 0).toNat hi lo

/-- Item `k` of an index or extent list. -/
def ext (e : List Nat) (k : Nat) : Nat := (e[k]?).getD 1

/-- The list of four values of a function. -/
def four (f : Nat → Nat) : List Nat := [f 0, f 1, f 2, f 3]

/-- The FILL element of a type (R219): a 64-bit element has the pattern in bits 63:48, `.i64` and `.n64` as `.b64` (DEDUCED, log
entry 63: R219 names `.b64` alone). -/
def fillValue (t : Ty) (p : Nat) : Nat :=
  match t.width with
  | 8 => p % 256
  | 16 => p
  | 32 => p * 2 ^ 16
  | _ => p * 2 ^ 48

/-- Whether a CONVERT step takes a pair of types: a pair of R95 with a floating-point source (R219). -/
def convPair (s d : Ty) : Bool := tyIsFloat s && cvtPairOk s d

/-- Apply one step word (R218, R219); none where it is bad. -/
def Tensor.step (x : Tensor) (w : Nat) : Option Tensor :=
  let op := nbits w 7 0
  let d := nbits w 9 8
  let a := nbits w 31 16
  let b := nbits w 47 32
  let c := nbits w 63 48
  let e := x.e
  let mk (e' : List Nat) (val : List Nat → TVal) : Option Tensor :=
    let y : Tensor := { x with e := e', val := val }
    if e'.all (fun n => decide (1 ≤ n ∧ n ≤ 16777215)) && decide (e'.foldl (· * ·) 1 ≤ 2 ^ 32) then some y else none
  if nbits w 15 10 != 0 then none
  else
    match op with
    | 1 =>
      if d = 3 || a = 0 || b != 0 || c != 0 || ext e d % max a 1 != 0 || ext e 3 != 1 then none
      else
        mk (four fun k => if k < d then ext e k else if k = d then a else if k = d + 1 then ext e d / a else ext e (k - 1))
          fun i => x.val (four fun k =>
            if k < d then ext i k else if k = d then ext i d + a * ext i (d + 1) else if k < 3 then ext i (k + 1) else 0)
    | 2 =>
      if d = 3 || a != 0 || b != 0 || c != 0 then none
      else
        mk (four fun k => if k < d then ext e k else if k = d then ext e d * ext e (d + 1)
            else if k < 3 then ext e (k + 1) else 1)
          fun i => x.val (four fun k =>
            if k < d then ext i k else if k = d then ext i d % max (ext e d) 1
            else if k = d + 1 then ext i d / max (ext e d) 1 else ext i (k - 1))
    | 3 =>
      let p (k : Nat) : Nat := a / 4 ^ k % 4
      if d != 0 || a / 256 != 0 || b != 0 || c != 0 || !([0, 1, 2, 3].all fun v => [p 0, p 1, p 2, p 3].contains v) then none
      else
        let at_ (v : Nat) : Nat := ([p 0, p 1, p 2, p 3].findIdx? (· == v)).getD 0
        mk (four fun k => ext e (p k)) fun i => x.val (four fun k => ext i (at_ k))
    | 4 =>
      mk (four fun k => if k = d then a + ext e d + b else ext e k) fun i =>
        if ext i d < a ∨ a + ext e d ≤ ext i d then .fill (fillValue x.ty c) x.conv.length
        else x.val (four fun k => if k = d then ext i d - a else ext i k)
    | 5 =>
      if c != 0 || b = 0 || decide (ext e d < a + b) then none
      else
        mk (four fun k => if k = d then b else ext e k) fun i => x.val (four fun k => if k = d then ext i d + a else ext i k)
    | 6 =>
      if b != 0 || c != 0 || a = 0 || ext e d != 1 then none
      else mk (four fun k => if k = d then a else ext e k) fun i => x.val (four fun k => if k = d then 0 else ext i k)
    | 7 =>
      match Ty.ofCode (a % 32) with
      | none => none
      | some t =>
        if d != 0 || a / 256 != 0 || b != 0 || c != 0 || !convPair x.ty t then none
        else
          (mk e x.val).map fun y =>
            { y with ty := t, conv := x.conv ++ [{ src := x.ty, dst := t, rm := Round.ofCode (BitVec.ofNat 2 (a / 32)),
                                                   sat := a / 128 % 2 == 1 }] }
    | _ => none

/-- Apply the step words up to the END or the eighth (R218). -/
def Tensor.steps (x : Tensor) : List DWord → Option Tensor
  | [] => some x
  | w :: t =>
    if w.toNat % 256 = 0 then (if w.toNat = 0 then some x else none)
    else match x.step w.toNat with
      | none => none
      | some y => y.steps t

/-- The source types of a record (R217). -/
def srcTypes : List Ty := [.n8, .n16, .b32, .b64, .f32, .f16, .bf16, .e4m3, .e5m2]

/-- What a checked record asks for. -/
structure Plan where
  ssp : CSpace
  dsp : CSpace
  ssz : Nat
  dsz : Nat
  conv : List Conv
  elems : List Elem

/-- A space code of a record. -/
def spaceOf (n : Nat) : Option CSpace := [CSpace.glob, .own, .peer, .bstore][n]?

/-- The elements of a result tensor in linear index order, with their addresses (R216). -/
def Tensor.elems (x : Tensor) (src dst : Nat) (ssz dsz : Nat) (ss ds : Nat → Int) : List Elem :=
  let n := x.e.foldl (· * ·) 1
  (List.range n).map fun k =>
    let i := [k % ext x.e 0, k / ext x.e 0 % ext x.e 1, k / (ext x.e 0 * ext x.e 1) % ext x.e 2,
              k / (ext x.e 0 * ext x.e 1 * ext x.e 2)]
    let off (j : List Nat) (z : Nat) (st : Nat → Int) : Int :=
      (ext j 0 * z : Nat) + ext j 1 * st 1 + ext j 2 * st 2 + ext j 3 * st 3
    let d := wrap (dst + off i dsz ds) 64
    match x.val i with
    | .src j => { src := wrap (src + off j ssz ss) 64, fill := none, stage := 0, dst := d }
    | .fill v st => { src := 0, fill := some v, stage := st, dst := d }

/-- The plan of a record of kind 0 CPYX, 1 CPYA, 2 CPYD, or none for COPY_RECORD_BAD (R221). -/
def planRecord (kind : Nat) (ws : List DWord) : Option Plan := do
  let f := recField ws
  let ssp ← spaceOf (f 2 2 0)
  let dsp ← spaceOf (f 2 5 3)
  let t ← Ty.ofCode (f 2 10 6)
  let e := four fun k => f 3 (16 * k + 15) (16 * k)
  if f 2 63 11 != 0 || f 7 63 0 != 0 || ssp == .bstore || (kind != 0 && dsp == .bstore) || !srcTypes.contains t
      || (kind == 2 && t != .f32) || e.contains 0 then none
  else
    let x ← ({ e := e, ty := t, conv := [], val := .src } : Tensor).steps (ws.drop 8)
    if kind == 1 && x.ty != .f32 then none
    else
      let ssz := if kind == 2 then 16 else t.width / 8
      let dsz := if kind == 1 then 16 else x.ty.width / 8
      let ss (k : Nat) : Int := match k with | 1 => sext (f 4 31 0) 32 | 2 => sext (f 4 63 32) 32 | _ => sext (f 5 31 0) 32
      let ds (k : Nat) : Int := match k with | 1 => sext (f 5 63 32) 32 | 2 => sext (f 6 31 0) 32 | _ => sext (f 6 63 32) 32
      if [1, 2, 3].any fun k => ss k % ssz != 0 || ds k % dsz != 0 then none
      else
        some { ssp := ssp, dsp := dsp, ssz := ssz, dsz := dsz, conv := x.conv,
               elems := x.elems (f 0 63 0) (f 1 63 0) ssz dsz ss ds }

/-- Where `ssz` bytes at an address of a space lie, when they are in bounds: SCRATCH_BOUNDS otherwise (R236 check 5). -/
def State.inBounds (s : State) (b : Nat) (sp : CSpace) (a n : Nat) : Bool :=
  match sp with
  | .glob => true
  | .own => (s.scratchLoc b a n).isSome
  | .peer => (s.peerLoc b a n).isSome
  | .bstore => decide (a + n ≤ 8388608)

/-- The lowest of some addresses that is out of bounds (R236). -/
def State.outOfBounds (s : State) (b : Nat) (sp : CSpace) (n : Nat) (as : List Nat) : Option Nat :=
  (as.filter fun a => !s.inBounds b sp a n).foldl (fun m a => some (match m with | some x => min x a | none => a)) none

/-- The bounds fault of a plan: the lowest failing source address, else the lowest failing destination address. -/
def State.planBounds (s : State) (b : Nat) (p : Plan) : Option Nat :=
  (s.outOfBounds b p.ssp p.ssz ((p.elems.filter fun e => e.fill.isNone).map (·.src))).or
    (s.outOfBounds b p.dsp p.dsz (p.elems.map (·.dst)))

/-- Elements of `k` consecutive bytes each. -/
def runElems (src dst k n : Nat) : List Elem :=
  (List.range n).map fun i => { src := (src + k * i) % 2 ^ 64, fill := none, stage := 0, dst := (dst + k * i) % 2 ^ 64 }

/-- A fabric address `k` bytes on (R226): an offset past 2^42 stays out of every window and does not run into WIN. -/
def fabStep (fab k : Nat) : Nat := if fab % 2 ^ 42 + k < 2 ^ 42 then fab + k else 2 ^ 64 + fab

/-- Convert an element from stage `st` on (R219). -/
def convElem (cs : List Conv) (st v : Nat) : Nat := (cs.drop st).foldl (fun v c => convert c.rm c.sat c.src c.dst v) v

/-- The location of an element's destination, by the page tables of now. -/
def State.dstLoc (s : State) (b : Nat) (sp : CSpace) (a n : Nat) : Option Nat :=
  match sp with
  | .glob => if 2 ^ 56 ≤ a then none else (s.mapped (s.ctxOfBlock b) a (s.pickMapping (s.ctxOfBlock b) a).1).1.map (·.pa)
  | .own => s.scratchLoc b a n
  | .peer => (s.peerLoc b a n).map (·.2)
  | .bstore => none

/-- Whether two pages that some global destinations lie in are one page in memory. -/
def State.pagesMeet (s : State) (b : Nat) (es : List Elem) : Bool :=
  let pages := es.foldl (fun (ps : List Nat) e => if ps.contains (e.dst / 65536) then ps else e.dst / 65536 :: ps) []
  let locs := pages.filterMap fun p => s.dstLoc b .glob (65536 * p) 1
  !(locs.eraseDups.length == locs.length)

/-- The elements with those that do not prevail made silent: where two fall on the same bytes, the one of larger linear index
prevails (R214). -/
def State.lastWins (s : State) (b : Nat) (sp : CSpace) (es : List Elem) : List Elem :=
  let meet := sp == .glob && s.pagesMeet b es
  let rises := (es.zip (es.drop 1)).all fun (a, b) => decide (a.dst < b.dst)
  if rises && !meet then es
  else
    let key (e : Elem) : Nat := if meet then (s.dstLoc b sp e.dst 1).getD e.dst else e.dst
    let last : Tab Nat := es.zipIdx.foldl (fun t (e, i) => t.put (key e) i) []
    es.zipIdx.map fun (e, i) => { e with silent := last.find? (key e) != some i }

end Sys2Proof.Machine
end

