-- ==== Sys2Proof/Machine/Engine.lean ====
section
/-! DEFINITION. The copy engine at work: what one element of an operation reads and writes, how operations start, stop on
a fault and finish (R177, R178, R211 to R214, R223, R225 to R230, R237). -/

namespace Sys2Proof.Machine

/-! ### Engine operations -/

/-- Issue an engine operation of the executing group, on a channel or on none (R177, R201, R349). -/
def State.newOp (s : State) (chan : Option Nat) (kind : OpKind) (tile : Bool) (st : OpState) : Nat × State :=
  let x := s.grp
  let o := Tab.fresh s.ops
  let e : EngOp := { grp := s.cur, block := x.block, core := x.core, chan := chan, kind := kind, st := st, tile := tile,
                     must := s.engineMust s.cur, known := x.known }
  let s := { s with ops := s.ops.put o e }.setGrp (x.count 10 1)
  let s := match chan with
    | some c => if st == .finished then s else s.modChan x.block c fun k => { k with queue := k.queue ++ [o] }
    | none => s
  (o, s)

/-- Whether an issue on a channel holds the group: 64 operations are queued, or the counter of copies is full (R201,
R210). -/
def State.chanFull (s : State) (c : Nat) : Bool :=
  decide (64 ≤ (s.chan s.grp.block c).queue.length) || s.counterFull false

/-- An operation stops: it counts as finished, with the fault pending for its group (R237). The elements of a result
queue that it has claimed stay claimed, and leave the queue (R262). -/
def State.failOp (s : State) (o code : Nat) (va : BitVec 64) : State :=
  let e := s.op o
  let left (r : RQueue) : RQueue := { r with elems := r.elems.filter fun (i, _) => !(e.todo.any fun x => x.src == i) }
  let drop (q : Nat) : State :=
    s.modBlock e.block fun k => { k with queues := k.queues.put q (left (Tab.get {} k.queues q)) }
  let s := match e.kind with
    | .qstore q .. => drop q
    | .qsend q .. => drop q
    | _ => s
  s.modOp o fun e => { e with todo := [], fault := if e.fault.isSome then e.fault else some (code, va) }

/-- An operation has finished: it leaves its channel. A fault of a group that has retired goes to the fault log (R133,
R237), and one of a grid that was aborted is dropped (R334). -/
def State.finishOp (s : State) (o : Nat) : State :=
  let e := s.op o
  let s := s.modOp o fun e => { e with st := .finished }
  let s := match e.kind with
    | .ncopy _ _ dom name _ _ => s.unpin (s.ctxOfBlock e.block) dom name
    | _ => s
  let s := match e.rel with
    | some m => match s.rels.find? m with
      | some r => { s with rels := s.rels.put m { r with done := true } }
      | none => s
    | none => s
  let s := match e.chan with
    | some c => s.modChan e.block c fun k => { k with queue := k.queue.filter (· != o) }
    | none => s
  let x := s.group e.grp
  match e.fault with
  | some (c, va) =>
    if x.retired then
      let s := s.modOp o fun e => { e with fault := none }
      if (s.launch (s.block e.block).launch).aborted then s
      else
        s.logFault (s.ctxOfBlock e.block)
          (s.faultRecord e.grp c va false true x.outer.pc 0 ((s.kernelOf x).funcIndex x.outer.body))
    else s
  | none => s

/-! ### Engine reads and writes -/

/-- Why an element could not move now: it waits for a watermark (R212), for page service (R331), or it fails. -/
inductive Stop
  | blocked
  | page (va : BitVec 64)
  | fail (code : Nat) (va : BitVec 64)
  deriving DecidableEq, Repr

/-- Where an engine access to `n` bytes of a space goes: virtual address or offset, and location (R156, R216). A bound
view is a source alone, and has no location. -/
def State.engineLoc (s : State) (b : Nat) (sp : CSpace) (a n : Nat) (u : Use) : Except Stop (Nat × Phys) × State :=
  let bounds : Except Stop (Nat × Phys) := .error (.fail fcScratchBounds (BitVec.ofNat 64 a))
  match sp with
  | .glob =>
    match s.access (s.ctxOfBlock b) a u with
    | (.ok p, s) => (if s.unreach p.pa then .error (.fail fcFabricUnreachable (BitVec.ofNat 64 a)) else .ok (a, p), s)
    | (.error c, s) =>
      (.error (if c = fcPageNotPresent then .page (BitVec.ofNat 64 (a % 2 ^ 56)) else .fail c (BitVec.ofNat 64 (a % 2 ^ 56))), s)
  | .own => (match s.scratchLoc b a n with | some l => .ok (a, ⟨l, 0⟩) | none => bounds, s)
  | .peer => (match s.peerLoc b a n with | some (_, l) => .ok (a % 2 ^ 32, ⟨l, 0⟩) | none => bounds, s)
  | .bstore => (if a + n ≤ 8388608 then .ok (a, ⟨bstoreKey (clusterOf (s.block b).core) + a, 0⟩) else bounds, s)

/-- Bytes that an operation reads at a location (R178, R212, R213): it waits for watermarks of other channels, joins and
sees what lies below a watermark, and may see what it has written itself, byte by byte (R214). `direct` is a read that no cache serves. -/
def State.engineBytes (s : State) (o va loc n : Nat) (direct : Bool := false) : Except Stop (List MByte) × State :=
  let e := s.op o
  if !(s.blockers e.block va loc n e.chan).isEmpty then (.error .blocked, s)
  else
    let s := s.joinBelow e.block va loc n
    let must := e.must ++ s.belowSids e.block va loc n
    let (bs, s) := s.engineRead e.core must e.known loc n direct
    if (List.range n).any fun i => isGated (s.op o).wrote (loc + i) then
      let (q, s) := s.draw
      (.ok (bs.zipIdx.map fun (b, i) => if q.testBit i then (gatedByte (s.op o).wrote (loc + i) b.poison).getD b else b), s)
    else (.ok bs, s)

/-- Bytes that an operation reads at an address of a space. -/
def State.engineSource (s : State) (o : Nat) (sp : CSpace) (a n : Nat) : Except Stop (List MByte) × State :=
  let b := (s.op o).block
  match s.engineLoc b sp a n .load with
  | (.error x, s) => (.error x, s)
  | (.ok (va, p), s) =>
    if sp == .glob && p.cls == 3 then
      match s.viewBytes (s.ctxOfBlock b) p.pa n with
      | some bs => (.ok bs, s)
      | none => (.error (.fail fcNameBad (BitVec.ofNat 64 (a % 2 ^ 56))), s)
    else s.engineBytes o va p.pa n (sp == .glob && p.nc)

/-- The plan of an operation's kind: spaces, sizes, conversions and elements. -/
def opPlan (k : OpKind) : Option Plan :=
  match k with
  | .cpy dsp ssp dst src n =>
    some { ssp := ssp, dsp := dsp, ssz := 4, dsz := 4, conv := [], elems := runElems src.toNat dst.toNat 4 (n / 4) }
  | .copyRec kind _ ws => planRecord kind ws
  | .fsend inScr fab src n =>
    some { ssp := if inScr then .own else .glob, dsp := .glob, ssz := 4, dsz := 4, conv := [],
           elems := (List.range (n / 4)).map fun i =>
             { src := (src.toNat + 4 * i) % 2 ^ 64, fill := none, stage := 0, dst := fabStep fab.toNat (4 * i) } }
  | .spred inScr fab src n =>
    some { ssp := if inScr then .own else .glob, dsp := .glob, ssz := 8, dsz := 16, conv := [],
           elems := (List.range n).map fun i =>
             { src := (src.toNat + 8 * i) % 2 ^ 64, fill := none, stage := 0, dst := fab.toNat } }
  | .ncopy dsp dst _ _ _ len =>
    some { ssp := .glob, dsp := dsp, ssz := 4, dsz := 4, conv := [], elems := runElems 0 dst.toNat 4 (len / 4) }
  | _ => none

/-- Ranges in falling order, none touching another, with one more. -/
def addSpan : List (Nat × Nat) → Nat × Nat → List (Nat × Nat)
  | [], x => [x]
  | (c, d) :: r, (a, b) =>
    if d < a then (a, b) :: (c, d) :: r
    else if c ≤ a then (c, max d b) :: r
    else match addSpan r (a, b) with
      | (e, f) :: q => if c ≤ f then (e, max d f) :: q else (c, d) :: (e, f) :: q
      | [] => [(c, d)]

/-- The ranges of addresses that the elements of a plan write (R379). -/
def Plan.cover (p : Plan) : List (Nat × Nat) :=
  p.elems.foldl (fun t x => addSpan t (x.dst, x.dst + p.dsz)) []

/-- Whether ranges hold every byte of the 32-byte sectors that `n` bytes at `a` of their space lie in, `va` being their address
(R379). -/
def fillsSectors (cover : List (Nat × Nat)) (a va n : Nat) : Bool :=
  decide (va % 32 ≤ a) && cover.any fun (c, d) => decide (c ≤ a - va % 32) && decide (a - va % 32 + (va % 32 + n + 31) / 32 * 32 ≤ d)

/-- Write bytes that lie in one page. -/
def State.engineWrite1 (s : State) (o : Nat) (sp : CSpace) (a : Nat) (bs : List MByte) (fills : Bool) : Option Stop × State :=
  let e := s.op o
  match s.engineLoc e.block sp a bs.length .store with
  | (.error x, s) => (some x, s)
  | (.ok (va, p), s) =>
    let w : Write := { loc := p.pa, bytes := bs, va := BitVec.ofNat 64 va, whole := fillsSectors e.cover a a bs.length }
    let s := s.modOp o fun e => { e with wrote := e.wrote ++ [w] }
    match e.chan with
    | some c =>
      if fills then
        (none, s.modChan e.block c fun k => k.fillBytes e.block (clusterOf (s.block e.block).core) va p.pa bs.length)
      else (none, s)
    | none => (none, s)

/-- An operation writes bytes, which its group's join will bring into the view, and its channel notes them (R177,
R211). Bytes that run into the next page are translated there. -/
def State.engineWrite (s : State) (o : Nat) (sp : CSpace) (a : Nat) (bs : List MByte) (fills : Bool) : Option Stop × State :=
  let left := 65536 - a % 65536
  if sp == .glob && decide (left < bs.length) then
    match s.engineWrite1 o sp a (bs.take left) fills with
    | (some x, s) => (some x, s)
    | (none, s) => s.engineWrite1 o sp (a + left) (bs.drop left) fills
  else s.engineWrite1 o sp a bs fills

/-! ### Accumulators (R222 to R225) -/

/-- The addend of an `.f32` value in a window of exponent `w` (R223): the integer, and whether it was NaN or clipped. -/
def accAddend (w : Int) (bits : Nat) : Int × Bool × Bool :=
  let top (s : Bool) : Int := if s then -(2 ^ 100 : Nat) else (2 ^ 100 : Nat)
  match fmtF32.fv bits with
  | .nan => (0, true, false)
  | .inf s => (top s, false, true)
  | .fin s m e =>
    let q := roundInt .rn s m (e + 64 - w)
    if 2 ^ 100 < q then (top s, false, true) else ((if s then -(q : Int) else q), false, false)

/-- Note a clipped or NaN addend in a channel (R210, R223). -/
def State.noteAddend (s : State) (o : Nat) (nan clip : Bool) : State :=
  let e := s.op o
  match e.chan with
  | some c => s.modChan e.block c fun k => { k with clipf := k.clipf || clip, nanf := k.nanf || nan }
  | none => s

/-- Add to an accumulator at its home, modulo 2^128, published at `.dev` (R223). As a RED does, the addition does not perform at
poisoned data (R208). -/
def State.accAdd (s : State) (core g loc : Nat) (q : Int) (rels : List Nat) : State :=
  let old := s.homeBytes loc 16
  if anyPoison old then s
  else (s.touchHome loc).homeAccess core g loc (leMBytes 16 (wrap (mVal old + q) 128)) 3 rels

/-- The `.f32` value of an accumulator (R225): a zero is +0, also where a negative one rounds to it. -/
def accValue (w : Int) (q : BitVec 128) : Nat :=
  let v := fmtF32.rnd .rn false (.fin (decide (q.toInt < 0)) q.toInt.natAbs (w - 64))
  if v = 0x80000000 then 0 else v

/-- Drain one accumulator (R225): the value of its first read, and zero left behind with `.clr`. An accumulator is one by its
location, whatever addresses reach it. In the window of a bound view it is read from the tree (R180, R293). -/
def State.accDrain (s : State) (o : Nat) (sp : CSpace) (a : Nat) (clr : Bool) : Except Stop (BitVec 128 × Bool) × State :=
  let e := s.op o
  match s.engineLoc e.block sp a 16 (if clr then .store else .load) with
  | (.error x, s) => (.error x, s)
  | (.ok (va, p), s) =>
    match e.cache.find? p.pa with
    | some v => (.ok v, s)
    | none =>
      if sp == .glob && p.cls == 3 then
        match s.viewBytes (s.ctxOfBlock e.block) p.pa 16 with
        | some bs =>
          let v := (BitVec.ofNat 128 (mVal bs), anyPoison bs)
          (.ok v, s.modOp o fun e => { e with cache := e.cache.put p.pa v })
        | none => (.error (.fail fcNameBad (BitVec.ofNat 64 (a % 2 ^ 56))), s)
      else if !(s.blockers e.block va p.pa 16 e.chan).isEmpty then (.error .blocked, s)
      else
        let s := s.joinBelow e.block va p.pa 16
        let s := s.placeFirst e.core p.pa 16 (fun _ => true) fun x => e.must.contains x
        let s := if clr then s else s.noteNonLive p.pa 16
        let bs := s.homeBytes p.pa 16
        let v := (BitVec.ofNat 128 (mVal bs), anyPoison bs)
        let s := if clr then ((s.supersede o p.pa 16).touchHome p.pa).homeAccess e.core e.grp p.pa (leMBytes 16 0) 3 [] else s
        (.ok v, s.modOp o fun e => { e with cache := e.cache.put p.pa v })

/-! ### Fabric delivery (R226 to R228) -/

/-- A receive window: context, base, length and kind. -/
structure RxWin where
  ctx : Nat
  base : Nat
  len : Nat
  kind : Nat
  deriving DecidableEq, Repr

/-- The receive window of a fabric job (R226, R352). -/
def State.rxWindow (s : State) (job win : Nat) : Option RxWin :=
  match List.find? (fun (_, c) => (c.word 31).getLsbD 63 && c.field 31 23 0 == job) s.contexts with
  | none => none
  | some (i, c) =>
    let at_ := c.field 32 51 0 + 16 * win
    let w1 := (s.homeWord (at_ + 8)).toNat
    if w1 / 2 ^ 63 = 1 then some ⟨i, (s.homeWord at_).toNat, w1 % 2 ^ 42, nbits w1 49 48⟩ else none

/-- The read of a window's entry in its context's table, counted where the table's group is not live (R161). -/
def State.noteWindow (s : State) (job win : Nat) : State :=
  match List.find? (fun (_, c) => (c.word 31).getLsbD 63 && c.field 31 23 0 == job) s.contexts with
  | none => s
  | some (_, c) => s.notePhys (c.field 32 51 0 + 16 * win) 16

/-- Where bytes go through a window, page by page, `n` pages at most: the offset, location and bytes of each part, or none where a page is not
present or takes no store: such a window refuses them as R226's do (R227; DEDUCED, log entry 78). -/
def State.windowParts (s : State) (w : RxWin) (off : Nat) (bs : List MByte) : Nat → Option (List (Nat × Nat × List MByte)) × State
  | 0 => (some [], s)
  | n + 1 =>
    let left := 65536 - (w.base + off) % 65536
    if bs.isEmpty then (some [], s)
    else match s.access w.ctx (w.base + off) .store with
      | (.error _, s) => (none, s)
      | (.ok p, s) =>
        let (r, s) := s.windowParts w (off + left) (bs.drop left) n
        (r.map fun t => (off, p.pa, bs.take left) :: t, s)

/-- Write bytes at the home of each through a window, published at `.dev` under release `rels` (R227, R262). `cover` are the ranges of
the window that the sender's operation writes in all (R379). -/
def State.windowWrite (s : State) (w : RxWin) (off : Nat) (bs : List MByte) (rels : List Nat) (cover : List (Nat × Nat) := []) :
    Bool × State :=
  match s.windowParts w off bs 2 with
  | (some ps, s) => (true, ps.foldl (fun s (i, a, b) =>
      (s.touchHome a).place agentCore 0 a b 3 3 rels (fillsSectors cover i (w.base + i) b.length)) s)
  | (none, s) => (false, s)

/-- FSEND_DELIVERY (R227): false where the window refuses the bytes. -/
def State.deliverFsend (s : State) (job win off : Nat) (bs : List MByte) (rels : List Nat) (cover : List (Nat × Nat) := []) :
    Bool × State :=
  match s.rxWindow job win with
  | none => (false, s.noteWindow job win)
  | some w =>
    let s := s.noteWindow job win
    if w.kind != 0 || w.len < off + bs.length then (false, s) else s.windowWrite w off bs rels cover

/-- Home bytes of a context's virtual address, read there (R161). -/
def State.virtualHome (s : State) (ctx va n : Nat) : Option (List MByte) × State :=
  match s.translate ctx va with
  | (some p, s) => (some (s.homeBytes p.pa n), s.notePhys p.pa n)
  | (none, s) => (none, s)

/-- Discard a pair or merged sum at the home: set a flag and count the pairs in NDROP, saturating (R228), under the release of the
operation's other writes (R230). -/
def State.discardPair (s : State) (w : RxWin) (flag count : Nat) (rels : List Nat) : State :=
  match s.virtualHome w.ctx w.base 16 with
  | (none, s) => s
  | (some h, s) =>
    let flags := (mVal ((h.drop 2).take 1)) ||| flag
    let n := min (mVal (h.drop 8) + count) (2 ^ 64 - 1)
    let s := (s.windowWrite w 2 (leMBytes 1 flags) rels).2
    (s.windowWrite w 8 (leMBytes 8 n) rels).2

/-- A completed release at `.dev` over g, under which the writes of an accepted packet are published (R227): an acquire that begins
after a later packet's value has been read requires them (R230). -/
def State.packetRel (s : State) : Nat × State :=
  let m := Tab.fresh s.rels
  (m, { s with rels := s.rels.put m { core := agentCore, scope := 3, mask := 2, todo := [], known := [], done := true } })

/-- SPRED_DELIVERY (R228) of a sum of `count` pairs tagged with `wexp`: false where the window refuses it. An addition does not
perform at a poisoned accumulator (R208, R223). -/
def State.deliverSpred (s : State) (job win index : Nat) (wexp : BitVec 16) (sum : Int) (count : Nat) (rels : List Nat) :
    Bool × State :=
  match s.rxWindow job win with
  | none => (false, s.noteWindow job win)
  | some w =>
    let s := s.noteWindow job win
    if w.kind != 1 || w.len < 64 then (false, s)
    else match s.virtualHome w.ctx w.base 16 with
      | (none, s) => (false, s)
      | (some h, s) =>
        if mVal (h.take 2) != wexp.toNat then (true, s.discardPair w 2 count rels)
        else if (w.len - 64) / 16 ≤ index then (true, s.discardPair w 1 count rels)
        else match s.access w.ctx (w.base + 64 + 16 * index) .store with
          | (.error _, s) => (false, s)
          | (.ok p, s) =>
            let old := s.homeBytes p.pa 16
            if anyPoison old then (true, s)
            else (true, (s.touchHome p.pa).place agentCore 0 p.pa (leMBytes 16 (wrap (mVal old + sum) 128)) 3 3 rels)

/-- The first port that still reaches a package, if there is one (R372). -/
def State.pathTo (s : State) (dst : Nat) : Option Nat :=
  (match Config.routes dst with | [] => [0] | is => is).find? fun i => !(Tab.get ({} : Port) s.ports i).lost.contains dst

/-- The port that packets to a package take. -/
def State.portOf (s : State) (dst : Nat) : Nat := (s.pathTo dst).getD 0

/-- Send a packet on a virtual lane: it takes the lane's next sequence number and stays until acknowledged (R232, R371). `bad`
are the payload bytes with poisoned data (R379). -/
def State.sendPacket (s : State) (dst vl type job : Nat) (payload : List Byte) (bad : List Nat := []) :
    (Nat × Nat × BitVec 32) × State :=
  let port := s.portOf dst
  let p := Tab.get {} s.ports port
  let l := Tab.get {} p.vls vl
  let k : Packet := { dst := dst, src := s.pkg, vl := vl, type := type, job := job, seq := l.tx, len := payload.length,
                      payload := payload, ok := true, bad := bad }
  let l := { l with tx := l.tx + 1, unacked := l.unacked ++ [k] }
  ((port, vl, k.seq), { s with ports := s.ports.put port { p with vls := p.vls.put vl l } })

/-- A port, and one of its virtual lanes (R232, R371). -/
def State.port (s : State) (i : Nat) : Port := Tab.get {} s.ports i
def State.setPort (s : State) (i : Nat) (p : Port) : State := { s with ports := s.ports.put i p }

def State.vl (s : State) (i v : Nat) : Vl := Tab.get {} (s.port i).vls v
def State.setVl (s : State) (i v : Nat) (l : Vl) : State :=
  s.setPort i { s.port i with vls := (s.port i).vls.put v l }

/-- A port has an acknowledgement up to a number on a virtual lane (R232). A window of the destination may have refused the
bytes of an FSEND or QSEND (R226): the spec gives no message for it, so a free value decides (DEDUCED, log entry 20). The
destination answers for the pairs of a SPRED on their own (R229). -/
def State.ackUpTo (s : State) (i v : Nat) (seq : BitVec 32) : State :=
  let l := s.vl i v
  let freed (k : BitVec 32) : Bool := decide ((seq - k).toNat < 2 ^ 31)
  let acked := l.unacked.filter fun k => freed k.seq
  if acked.isEmpty then s
  else
    let s := s.setVl i v { l with unacked := l.unacked.filter (fun k => !freed k.seq), naks := 0, counted := 0 }
    let hit (x : Nat × Nat × BitVec 32 × BitVec 64) : Bool := x.1 == i && x.2.1 == v && freed x.2.2.1
    s.ops.foldl (fun (s : State) (o, e) =>
      match e.sent.find? hit with
      | none => s
      | some x =>
        let (q, s) := s.draw
        let s := s.modOp o fun e => { e with sent := e.sent.filter fun x => !hit x }
        match e.kind with
        | .spred .. => s
        | _ => if q % 2 = 1 then s.failOp o fcPageProtection x.2.2.2 else s) s

/-- Fields of a fabric address (R226). -/
def fabPkg (a : Nat) : Nat := nbits a 63 50
def fabWin (a : Nat) : Nat := nbits a 49 42
def fabOff (a : Nat) : Nat := nbits a 41 0

/-- The release that stands for the fabric writes of an operation, made with its first write (R230). -/
def State.fabRel (s : State) (o : Nat) : Nat × State :=
  let e := s.op o
  match e.rel with
  | some m => (m, s)
  | none =>
    let m := Tab.fresh s.rels
    let r : RelRec := { core := agentCore, scope := 3, mask := 2, todo := [], known := e.known, done := false }
    (m, { s with rels := s.rels.put m r }.modOp o fun e => { e with rel := some m })

/-- The job of a block's context. -/
def State.jobOf (s : State) (b : Nat) : Nat := (s.ctx (s.ctxOfBlock b)).field 31 23 0

/-- Whether a block's context may use the fabric (R352). -/
def State.fabricOn (s : State) (b : Nat) : Bool := ((s.ctx (s.ctxOfBlock b)).word 31).getLsbD 63

/-- Send FSEND or QSEND bytes to a fabric address: to a window of the own package at once, else as a packet whose payload
is the fabric address and the bytes, their poison with them (R237, R262; DEDUCED, log entry 20). Bytes past every window are
refused (R226). The operation of a context that may not use the fabric fails when it runs (DEDUCED, log entry 78). The answer is a
fault. -/
def State.sendBytes (s : State) (o fab : Nat) (bs : List MByte) (va : BitVec 64) : Option Stop × State :=
  let b := (s.op o).block
  let dst := fabPkg fab
  if !s.fabricOn b then (some (.fail fcPageProtection va), s)
  else if s.unreachable.contains dst then (some (.fail fcFabricUnreachable va), s)
  else if 2 ^ 64 ≤ fab then (some (.fail fcPageProtection va), s)
  else if dst = s.pkg then
    let (m, s) := s.fabRel o
    let first := fab - fabOff fab
    let cover := ((s.op o).cover.filter fun (c, _) => decide (first ≤ c)).map fun (c, d) => (c - first, d - first)
    let (ok, s) := s.deliverFsend (s.jobOf b) (fabWin fab) (fabOff fab) bs [m] cover
    (if ok then none else some (.fail fcPageProtection va), s)
  else
    let bad := bs.zipIdx.filterMap fun (x, i) => if x.poison then some (8 + i) else none
    let (k, s) := s.sendPacket dst 0 0x06 (s.jobOf b) (leBytes 8 fab ++ bs.map (·.val)) bad
    (none, s.modOp o fun e => { e with sent := e.sent ++ [(k.1, k.2.1, k.2.2, va)] })

/-- Send one SPRED pair (R228): converted with the channel's window, its CLIPF and NANF noted, and tagged. To another package the
packet names its contribution too: source package, operation and pair count, which the destination acknowledges (R229; DEDUCED,
log entry 20); it goes on virtual lane 0, the lane of requests, since R371 names others for merged sums and the overflow path alone
(DEDUCED, log entry 83). -/
def State.sendPair (s : State) (o fab index bits : Nat) (va : BitVec 64) : Option Stop × State :=
  let e := s.op o
  let dst := fabPkg fab
  if !s.fabricOn e.block then (some (.fail fcPageProtection va), s)
  else if s.unreachable.contains dst then (some (.fail fcFabricUnreachable va), s)
  else
    let (q, nan, clip) := accAddend e.wexp bits
    let s := s.noteAddend o nan clip
    let w := BitVec.ofInt 16 e.wexp
    if dst = s.pkg then
      let (m, s) := s.fabRel o
      let (ok, s) := s.deliverSpred (s.jobOf e.block) (fabWin fab) index w q 1 [m]
      (if ok then none else some (.fail fcPageProtection va), s)
    else
      let (k, s) := s.sendPacket dst 0 0x07 (s.jobOf e.block)
        (leBytes 8 fab ++ leBytes 4 index ++ leBytes 2 w.toNat ++ leBytes 2 1 ++ leBytes 16 (wrap q 128)
          ++ leBytes 2 s.pkg ++ leBytes 4 o ++ leBytes 4 1)
      (none, s.modOp o fun e => { e with sent := e.sent ++ [(k.1, k.2.1, k.2.2, va)], pairs := e.pairs ++ [va] })

/-! ### Moving one element -/

/-- A source element's bytes (R219, R225, R295), or those of a FILL pattern. -/
def State.elemBytes (s : State) (o : Nat) (p : Plan) (x : Elem) : Except Stop (List MByte) × State :=
  match x.fill with
  | some v => (.ok (leMBytes 8 v), s)
  | none =>
    match (s.op o).kind with
    | .copyRec 2 clr _ =>
      match s.accDrain o p.ssp x.src clr with
      | (.ok (q, poi), s) => (.ok ((leMBytes 4 (accValue (s.op o).wexp q)).map fun b => { b with poison := poi }), s)
      | (.error e, s) => (.error e, s)
    | .ncopy _ _ dom name depth _ =>
      match (List.range 4).mapM fun i => (s.domain dom).treeByte name depth (x.src + i) with
      | some bs => (.ok bs, s)
      | none => (.error (.fail fcNameBad (BitVec.ofNat 64 x.dst)), s)
    | _ => s.engineSource o p.ssp x.src p.ssz

/-- An element's value after its CONVERT steps, as bytes of the destination. -/
def elemValue (p : Plan) (n : Nat) (x : Elem) (bs : List MByte) : List MByte :=
  if p.conv.isEmpty then bs.take n
  else (leMBytes n (convElem p.conv x.stage (mVal bs))).map fun b => { b with poison := anyPoison bs }

/-- Perform an element whose source has been read. -/
def State.putElem (s : State) (o : Nat) (p : Plan) (x : Elem) (bs : List MByte) : Option Stop × State :=
  let e := s.op o
  let va := BitVec.ofNat 64 x.src
  match e.kind with
  | .copyRec 1 _ _ =>
    let v := elemValue p 4 x bs
    if anyPoison v then (some (.fail fcUncorrectable va), s)
    else match s.engineLoc e.block p.dsp x.dst 16 .store with
      | (.error z, s) => (some z, s)
      | (.ok (_, l), s) =>
        let (q, nan, clip) := accAddend e.wexp (mVal v)
        let s := (s.noteAddend o nan clip).placeFirst e.core l.pa 16 (fun _ => true) fun x => e.must.contains x
        if anyPoison (s.homeBytes l.pa 16) then (none, s)
        else
          let seq := s.nextSeq
          (none, ((s.supersede o l.pa 16).accAdd e.core e.grp l.pa q []).modOp o fun e => { e with adds := seq :: e.adds })
  | .fsend .. => s.sendBytes o x.dst bs va
  | .spred .. =>
    if anyPoison bs then (some (.fail fcUncorrectable va), s)
    else s.sendPair o x.dst (mVal (bs.take 4)) (mVal (bs.drop 4)) va
  | _ => s.engineWrite o p.dsp x.dst (elemValue p p.dsz x bs) true

/-- Whether two destinations of a block share a byte (R214): in one space by address, or by location where a peer address
reaches the own scratchpad or two pages are one in memory. -/
def State.sameBytes (s : State) (b : Nat) (sp : CSpace) (a n : Nat) (sq : CSpace) (c m : Nat) : Bool :=
  if sp == sq && (meets a n c m || sp != .glob) then meets a n c m
  else if sp == sq && !(decide ((a + 65536 - c % 65536) % 65536 < m) || decide ((c + 65536 - a % 65536) % 65536 < n)) then false
  else match s.dstLoc b sp a n, s.dstLoc b sq c m with
    | some x, some y => meets x n y m
    | _, _ => false

/-- The bytes of the block's spaces that an element of an operation with a plan writes: its destination, and with CPYD `.clr` the
accumulator too (R225). FSEND and SPRED are not ordered with other operations (R230). -/
def OpKind.span (k : OpKind) (p : Plan) (x : Elem) : List (CSpace × Nat × Nat) :=
  let plain := if x.silent then [] else [(p.dsp, x.dst, p.dsz)]
  match k with
  | .fsend .. | .spred .. => []
  | .copyRec 1 _ _ => [(p.dsp, x.dst, 16)]
  | .copyRec 2 true _ => plain ++ if x.fill.isSome then [] else [(p.ssp, x.src, 16)]
  | _ => plain

/-- The bytes that some elements of an operation write. -/
def OpKind.spans (k : OpKind) (xs : List Elem) : List (CSpace × Nat × Nat) :=
  match opPlan k with
  | none => []
  | some p => xs.flatMap (k.span p)

/-- Whether an operation only adds to accumulators: any order of additions gives the same bits (R223). -/
def OpKind.adds (k : OpKind) : Bool := match k with | .copyRec 1 _ _ => true | _ => false

/-- Earlier operations of a channel that still have to write the bytes an element writes (R214). -/
def State.aheadOf (s : State) (o : Nat) (x : Elem) : Bool :=
  let e := s.op o
  let mine := e.kind.spans [x]
  e.chan.isSome && !mine.isEmpty && s.ops.any fun (i, f) =>
    decide (i < o) && f.block == e.block && f.chan == e.chan && f.st == .started && !(e.kind.adds && f.kind.adds)
      && (f.kind.spans f.todo).any fun (q, c, m) => mine.any fun (p, a, n) => s.sameBytes e.block p a n q c m

/-- A result queue of a block (R257). -/
def State.rqueue (s : State) (b q : Nat) : RQueue := Tab.get {} (s.block b).queues q
def State.modQueue (s : State) (b q : Nat) (f : RQueue → RQueue) : State :=
  s.modBlock b fun k => { k with queues := k.queues.put q (f (Tab.get {} k.queues q)) }

/-- A queue element as bytes of its own width (R262). -/
def QElem.bytes (e : QElem) : List MByte := (leMBytes e.width e.val.toNat).map fun b => { b with poison := e.poison }

/-- Move one claimed element of a result queue (R257, R262): it waits for its drain, and leaves the queue. -/
def State.moveQueue (s : State) (o q : Nat) (x : Elem) (put : State → List MByte → Option Stop × State) :
    Option Stop × State :=
  let b := (s.op o).block
  match (s.rqueue b q).elems.find? x.src with
  | none => (some .blocked, s)
  | some e =>
    if !e.written then (some .blocked, s)
    else match put s e.bytes with
      | (none, s) => (none, s.modQueue b q fun r => { r with elems := r.elems.erase x.src })
      | (some z, s) => (some z, s)

/-- Move one element of a started operation. A silent one is only read (R214). `faultva` of a QSEND's fabric faults, for which R237 asks a
source address that an element of a queue does not have, is 0 (DESIGN CHOICE, log entry 53). -/
def State.moveElem (s : State) (o : Nat) (x : Elem) : Option Stop × State :=
  match (s.op o).kind with
  | .qstore q _ _ inScr _ => s.moveQueue o q x fun s bs => s.engineWrite o (if inScr then .own else .glob) x.dst bs false
  | .qsend q _ _ _ => s.moveQueue o q x fun s bs => s.sendBytes o x.dst bs 0
  | k =>
    match opPlan k with
    | none => (none, s)
    | some p =>
      if s.aheadOf o x then (some .blocked, s)
      else match s.elemBytes o p x with
        | (.error z, s) => (some z, s)
        | (.ok bs, s) => if x.silent then (none, s) else s.putElem o p x bs

/-- `faultva` of an element's fault (R237, R295, R297): a copy's fabric fault holds the source address, and those of NCOPY
the first destination address not written. An element that PAD made has no source address, and gives 0, and so does one of a QSEND
(DESIGN CHOICE, log entry 53). -/
def EngOp.faultAddr (e : EngOp) (x : Elem) (code : Nat) (va : BitVec 64) : BitVec 64 :=
  match e.kind with
  | .ncopy .. =>
    if code = fcNameBad ∨ code = fcFabricUnreachable then
      BitVec.ofNat 64 (e.todo.foldl (fun m y => min m y.dst) x.dst)
    else va
  | .cpy .. | .copyRec .. => if code = fcFabricUnreachable then BitVec.ofNat 64 x.src else va
  | _ => va

/-- Try the element at place `k` of an operation's list: it is taken off when it has moved; a fault stops the operation; a
page that is not present makes it wait for page service (DEDUCED, log entry 48). -/
def State.tryElem (s : State) (o k : Nat) : State :=
  let e := s.op o
  match e.todo[k]? with
  | none => s
  | some x =>
    match s.moveElem o x with
    | (none, s) => s.modOp o fun e => { e with todo := e.todo.eraseIdx k }
    | (some .blocked, s) => s
    | (some (.page va), s) => s.modOp o fun e => { e with paging := some va }
    | (some (.fail c va), s) => s.failOp o c ((s.op o).faultAddr x c va)

/-- Move the elements that are left, in order, until one stops; `n` bounds the count. -/
def State.drainElems (s : State) (o : Nat) : Nat → State
  | 0 => s
  | n + 1 =>
    let before := (s.op o).todo.length
    let s := s.tryElem o 0
    if (s.op o).todo.length < before && (s.op o).paging.isNone then s.drainElems o n else s

/-- Whether a started operation has nothing left to do: every element has moved, and every packet and pair is acknowledged (R229). -/
def EngOp.done (e : EngOp) : Bool :=
  e.todo.isEmpty && e.paging.isNone && ((e.sent.isEmpty && e.pairs.isEmpty) || e.fault.isSome)

/-- COPY_OPERATION_START (R214, R235): the channel's first queued operation starts, with the window exponent of now. -/
def execCopyOperationStart (b c : Nat) (s : State) : Out :=
  let ch := s.chan b c
  match (if (s.block b).st == .saved then none else ch.queue.find? fun o => (s.op o).st == .queued) with
  | none => .next s
  | some o =>
    let e := s.op o
    let adds := match e.kind with | .copyRec 1 _ _ | .fsend .. | .spred .. => true | _ => false
    let es := match opPlan e.kind with
      | some p => if adds then p.elems else s.lastWins b p.dsp p.elems
      | none => []
    let cover := match opPlan e.kind with | some p => p.cover | none => []
    .next (s.modOp o fun e => { e with st := .started, wexp := ch.wexp, todo := es, cover := cover })

/-- COPY_OPERATION_COMPLETE (R211, R223, R237): the elements that are left move, and the operation finishes, unless one
of them still waits. -/
def execCopyOperationComplete (o : Nat) (s : State) : Out :=
  let e := s.op o
  if e.st != .started || e.paging.isSome then .next s
  else
    let s := s.drainElems o e.todo.length
    if (s.op o).done then .next (s.finishOp o) else .next s

end Sys2Proof.Machine
end

