-- ==== Sys2Proof/Machine/System.lean ====
section
/-! DEFINITION. System instructions, opcodes 0xE8 to 0xEC: special registers, the return from a handler, counters and
debugging (R53, R121, R337, R338, R345 to R350). -/

namespace Sys2Proof.Machine

/-- Coordinate `k` of the executing group's block, and the grid extents (R53, R355). -/
def State.blkCoord (s : State) (k : Nat) : Nat :=
  let b := s.block s.grp.block
  let r := (s.launch b.launch).record
  let nx := max 1 (nbits ((r[1]?).getD 0).toNat 31 0)
  let ny := max 1 (nbits ((r[1]?).getD 0).toNat 63 32)
  match k with
  | 0 => b.lin % nx
  | 1 => b.lin / nx % ny
  | _ => b.lin / nx / ny
def State.gridDim (s : State) (k : Nat) : Nat :=
  let r := (s.launch (s.block s.grp.block).launch).record
  match k with
  | 0 => nbits ((r[1]?).getD 0).toNat 31 0
  | 1 => nbits ((r[1]?).getD 0).toNat 63 32
  | _ => nbits ((r[2]?).getD 0).toNat 31 0

/-- A special register in lane `l` (R53); inside a handler the interrupted group's (R335). `clock` is read elsewhere. -/
def State.special (s : State) (sp : Special) (l : Nat) : Nat :=
  let x := s.grp
  let t := x.outer
  let k := s.core x.core
  match sp with
  | .exec => t.exec.toNat
  | .live => t.live.toNat
  | .laneid => if x.hnd.isSome then 0 else l
  | .quadid => if x.hnd.isSome then 0 else l / 4
  | .grpid => x.grpid
  | .blkx => s.blkCoord 0
  | .blky => s.blkCoord 1
  | .blkz => s.blkCoord 2
  | .nblkx => s.gridDim 0
  | .nblky => s.gridDim 1
  | .nblkz => s.gridDim 2
  | .lidcore => (s.block x.block).lidCore
  | .lidclus => (s.block x.block).lidCore / 4
  | .lmap => k.lmap.toNat
  | .npass => passCount k.lmap x.half x.l16
  | .clock => k.clock.toNat
  | .abortc => x.abortc.toNat
  | .faultc => x.faultc.toNat
  | .faultva => x.faultva.toNat
  | .stkptr => x.stkptr.toNat
  | .stklim => x.stklim.toNat
  | .dbase => (((s.launch (s.block x.block).launch).record[13]?).getD 0).toNat

/-- SGET (R346): a read of `clock` advances the counter first, and gives every lane one value. -/
def execSget (f : SgetOp) (s : State) : Out :=
  s.perform f.guard (ilen f.ext) fun act s =>
    let s := if f.sp == .clock then (s.readClock s.grp.core).2 else s
    let v (l : Nat) : Nat := s.special f.sp l
    let r := s.th.regs
    (s.setRegs (if f.u then r.setScal f.d.toNat (BitVec.ofNat 64 (v 0))
      else r.putLanes f.d.toNat (if f.sp.wide then 64 else 32) act v)).advance (ilen f.ext)

/-- Lanes of a group that an SSET of `exec` ignores beside the ended ones: helper and absent lanes (R104, R121). -/
def State.outsideLanes (s : State) (x : Group) : Mask := x.outer.outside ||| s.absentOf x

/-- SSET of `exec` (R121, R102): narrowing or widening within the strand. Performed by lanes of an open region it adds no lane
outside RM (R307). -/
def State.setExec (s : State) (v : Mask) : State :=
  let x := s.grp
  let t := x.outer
  let e := v &&& t.strand &&& ~~~t.ended &&& ~~~(s.outsideLanes x)
  let e := if x.inRegion (x.th.exec &&& x.th.live) then e &&& (t.exec ||| x.rm) else e
  let y := x.setOuter { t with exec := e }
  s.setGrp (if e &&& ~~~t.exec != 0 && x.hnd.isNone then y.count 4 (rejoinCharge (s.core x.core).lmap x.half) else y)

/-- SSET of `live` (R338): effective in an uncorrectable-error handler alone. -/
def State.setLive (s : State) (v : Mask) : State :=
  let x := s.grp
  match x.hnd with
  | some h =>
    if h.fault.code = fcUncorrectable then
      let live := v &&& (h.outer.live ||| h.fault.killed) &&& ~~~(s.absentOf x)
      s.setGrp { x with hnd := some { h with outer := { h.outer with live := live } } }
    else s
  | none => s

/-- SSET (R347). -/
def execSset (f : SsetOp) (s : State) : Out :=
  s.perform Guard.always (ilen f.ext) fun act s =>
    let v := s.env.uval f.b (if f.sp.wide then 64 else 32)
    match f.sp with
    | .exec => (s.setExec (BitVec.ofNat 32 v)).advance (ilen f.ext)
    | .live => (s.setLive (BitVec.ofNat 32 v)).advance (ilen f.ext)
    | .stkptr =>
      if v < s.grp.stklim.toNat then s.raise (ilen f.ext) act fcStackLimit 0
      else (s.setGrp { s.grp with stkptr := BitVec.ofNat 64 v }).advance (ilen f.ext)
    | _ => s.advance (ilen f.ext)

/-- Return from the running handler to where the fault sends plain RTE (R337, R348). -/
def execRte (_f : PlainOp) (s : State) : Out :=
  match s.grp.hnd with
  | some h => .next ((s.flush s.cur).returnTo h.fault.rte)
  | none => .next s

/-- RTE `.skip` (R337). -/
def execRteSkip (_f : PlainOp) (s : State) : Out :=
  match s.grp.hnd with
  | some h => .next ((s.flush s.cur).returnTo h.fault.skip)
  | none => .next s

/-- RTE `.end` (R337): every lane of the group that is live and not ended ends, so that it retires. -/
def execRteEnd (_f : PlainOp) (s : State) : Out :=
  match s.grp.hnd with
  | some h =>
    let s := (s.flush s.cur).returnTo h.fault.rte
    .next (s.setTh (s.th.endLanes (s.th.live &&& ~~~s.th.ended)))
  | none => .next s

/-- RTE `.abort` (R337): the grid terminates with the current fault's record. -/
def execRteAbort (_f : PlainOp) (s : State) : Out :=
  match s.grp.hnd with
  | some h => .next ((s.flush s.cur).abortGrid s.cur h.fault false)
  | none => .next s

/-- Whether reading a profile counter finds what no rule fixes (R349): cycles, TLB and L1 misses, the commit points that the translator is
free to place, and the second pass of a window in which a legacy group has issued paired (R107). Cycles in which it was ready may
always have passed; the others count only where something has happened that they count (DESIGN CHOICE, log entry 14). -/
def perfFree (x : Group) (i : Nat) : Bool :=
  i == 2 || ([1, 3, 6, 7, 8, 11].contains i && Tab.get 0 x.perf (16 + i) != 0)

/-- What timing has added to a profile counter since it was last read, from a free value: second passes, misses of L1 and placed commit
points come to no more than the paired issues, the loads' requests and the boundaries passed. -/
def perfExtra (x : Group) (i q : Nat) : Nat :=
  if i == 1 || i == 6 || i == 11 then q % ((Tab.get 0 x.perf (16 + i)).toNat + 1) else q

/-- PERF (R349): a counter of 12 or more gives 0. -/
def execPerf (f : PerfOp) (s : State) : Out :=
  s.perform Guard.always (ilen f.ext) fun _ s =>
    let i := s.env.uval f.b 64
    let s := if perfFree s.grp i then
        let (q, s) := s.draw
        let x := s.grp.count i (perfExtra s.grp i q)
        s.setGrp { x with perf := x.perf.erase (16 + i) }
      else s
    let v := if 12 ≤ i then 0 else Tab.get 0 s.grp.perf i
    let s := s.setRegs (s.th.regs.setScal f.d.toNat v)
    let s := if f.clr && decide (i < 12) then s.setGrp { s.grp with perf := s.grp.perf.put i 0 } else s
    s.advance (ilen f.ext)

/-- Append a record to the context's debug ring, and signal VDBG at each half of the ring (R350, R366). -/
def State.dbgRecord (s : State) (ctx : Nat) (bs : List Byte) : State :=
  let c := s.ctx ctx
  let ring := (c.word 26).toNat
  let cap := c.field 27 31 0
  if ring = 0 then s
  else match s.ringAppend ctx ring cap bs with
    | (some n, s) => if n % ((cap + 1) / 2) = 0 then s.signal (s.fnOf ctx) (c.field 37 21 16) else s
    | (none, s) => s

/-- DBG `.log` (R350). -/
def execDbgLog (f : DbgLogOp) (s : State) : Out :=
  s.perform Guard.always (ilen f.ext) fun act s =>
    s.orUnsupported act fun s =>
      let s := s.flush s.cur
      let x := s.grp
      let (clk, s) := s.readClock x.core
      let b := s.block x.block
      let bs := leBytes 8 (f.tag.toNat + x.grpid * 2 ^ 32) ++ leBytes 8 (x.th.regs.scal f.a.toNat).toNat
        ++ leBytes 8 (x.th.pc + b.lidCore * 2 ^ 32) ++ leBytes 8 clk.toNat
      (s.dbgRecord (s.ctxOf s.cur) bs).advance (ilen f.ext)

/-- DBG `.halt` (R350): with a debugger attached the group waits for DBG_RESUME (DEDUCED, log entry 30). -/
def execDbgHalt (f : PlainOp) (s : State) : Out :=
  s.perform Guard.always (ilen f.ext) fun act s =>
    s.orUnsupported act fun s =>
      let s := (s.flush s.cur).advance (ilen f.ext)
      if (s.ctx (s.ctxOf s.cur)).debugger then s.waitHere .halt else s

end Sys2Proof.Machine
end

