-- ==== Sys2Proof/Machine/Place.lean ====
section
/-! DEFINITION. The block distributor: which hardware cluster and which cores a launch cluster takes, and the blocks and
groups that it creates there (R18, R120, R129 to R131, R163, R191, R197, R246, R357, R362, R363). -/

namespace Sys2Proof.Machine

/-! ### Lane-map classes (R18, R26, R326) -/

/-- The class of a half: 0 full, 1 wide, 2 narrow, 3 absent. -/
def halfClass (lmap : BitVec 64) (h : Nat) : Nat :=
  let g := goodLanes lmap h
  if g = 32 then 0 else if 24 ≤ g then 1 else if 16 ≤ g then 2 else 3

/-- The class pair of a core: half 0, and 4 times half 1. -/
def coreClass (lmap : BitVec 64) : Nat := halfClass lmap 0 + 4 * halfClass lmap 1

/-- Passes of a 32-lane group, or of a legacy pair, on a half (R362). -/
def halfPasses (lmap : BitVec 64) (h : Nat) : Nat := if goodLanes lmap h = 32 then 1 else 2

/-- The passes that `n` groups of a block cost on a half (R362): legacy groups in pairs, and one left over on its own (R107). -/
def halfCost (l16 : Bool) (lmap : BitVec 64) (h n : Nat) : Nat :=
  if l16 then n / 2 * halfPasses lmap h + n % 2 else n * halfPasses lmap h

/-! ### What is free -/

/-- The blocks that hold room on a core (R362): resident and retiring ones. -/
def State.blocksOn (s : State) (core : Nat) : List Nat :=
  (s.blocks.filter fun (_, b) => b.core == core && (b.st == .resident || b.st == .retiring)).map (·.1)

/-- The blocks on a hardware cluster. -/
def State.blocksOnCluster (s : State) (cl : Nat) : List Nat := (List.range 4).flatMap fun i => s.blocksOn (4 * cl + i)

/-- Free group slots of a half (R18): 32 less the groups of blocks that have not retired; none on a fused-off half. A retired
group of a resident block holds no slot (DESIGN CHOICE, log entry 59: R132 names what a block's retirement frees, and no slot). -/
def State.freeSlots (s : State) (core half : Nat) : Nat :=
  if halfClass (s.core core).lmap half = 3 then 0
  else 32 - (s.groups.filter fun (_, g) => g.core == core && g.half == half && !g.retired && decide (g.grpid < 32)
    && (s.block g.block).st == .resident).length

/-- The groups of a block of a kernel (R129). -/
def Kernel.lanes (k : Kernel) : Nat := k.bx * k.bY * k.bz
def Kernel.nGroups (k : Kernel) : Nat := let w := if k.l16 then 16 else 32; (k.lanes + w - 1) / w

/-- A split of a block's groups with `n0` on half 0, and its cost, when it fits the free slots (R362). -/
def State.splitCost (s : State) (core : Nat) (l16 : Bool) (n n0 : Nat) : Option Nat :=
  let lmap := (s.core core).lmap
  let fits (h k : Nat) : Bool := k == 0 || decide (k ≤ s.freeSlots core h)
  if fits 0 n0 && fits 1 (n - n0) then some (max (halfCost l16 lmap 0 n0) (halfCost l16 lmap 1 (n - n0))) else none

/-- The split of a kernel's block on a core: groups on half 0 and the cost, or none when it does not fit. It is the one of
least cost, and on a tie the one with more groups on half 0 (R362). Legacy pairs stay together; with an odd number of groups the last
one, which has no partner, goes to either half (R107). -/
def State.splitOf (s : State) (core : Nat) (k : Kernel) : Option (Nat × Nat) :=
  (List.range (k.nGroups + 1)).foldl (fun best n0 =>
    if k.l16 && n0 % 2 == 1 && k.nGroups % 2 == 0 then best
    else match s.splitCost core k.l16 k.nGroups n0, best with
      | none, b => b
      | some c, none => some (n0, c)
      | some c, some (m, d) => if c ≤ d then some (n0, c) else some (m, d)) none

/-- The load of a core: the costs of its resident blocks (R362). -/
def State.coreLoad (s : State) (core : Nat) : Nat :=
  let lmap := (s.core core).lmap
  (s.blocksOn core).foldl (fun n b =>
    let k := (s.launch (s.block b).launch).kernel
    let on (h : Nat) : Nat := ((s.block b).groups.filter fun g => (s.group g).half == h && decide ((s.group g).grpid < 32)).length
    n + max (halfCost k.l16 lmap 0 (on 0)) (halfCost k.l16 lmap 1 (on 1))) 0

/-! ### Scratchpad ways (R163, R164) -/

/-- The allocations on a core: first byte and end. -/
def State.allocations (s : State) (core : Nat) : List (Nat × Nat) :=
  (s.blocksOn core).map fun b => ((s.block b).scr, (s.block b).scr + s.scratchOf b)

/-- Where a block's contiguous allocation can stand in the seven ways that may be scratchpad: the lowest such byte (R163; DESIGN
CHOICE, log entry 58). -/
def State.scrHole (s : State) (core size : Nat) : Option Nat :=
  let al := s.allocations core
  let free (o : Nat) : Bool := decide (o + size ≤ 458752) && al.all fun x => decide (o + size ≤ x.1) || decide (x.2 ≤ o)
  (0 :: al.map (·.2)).foldl (fun best o =>
    if free o then some (match best with | some m => min m o | none => o) else best) none

/-- Wsp of a core: the ways that its blocks' allocations use (R163, R164). -/
def State.fitWays (s : State) (core : Nat) : State :=
  let top := (s.allocations core).foldl (fun m x => max m x.2) 0
  s.modCore core fun k => { k with wsp := (top + 65535) / 65536 }

/-- Whether a die has a working Mallet core (R22). -/
def State.dieManaged (s : State) (die : Nat) : Bool := !(List.range 4).all fun i => s.mallets.contains (4 * die + i)

/-- Whether a core takes blocks of a context: in service, not draining (R28), and not quarantined except for redundant
contexts (R385). -/
def State.coreOpen (s : State) (ctx core : Nat) : Bool :=
  let k := s.core core
  coreClass k.lmap != 15 && !k.drain && !k.fuseDue && (!k.quarantine || (s.ctx ctx).redundant)

/-- The resulting load of a core that takes one block of a kernel, if the block fits (R18, R163). -/
def State.loadWith (s : State) (ctx core : Nat) (k : Kernel) : Option Nat :=
  if !s.coreOpen ctx core || (s.scrHole core k.scratch).isNone then none
  else (s.splitOf core k).map fun (_, c) => s.coreLoad core + c

/-- Whether a context's work may be placed or restored: a gang member's only in a slice that has begun (R352, R374; DEDUCED, log entry 41). -/
def State.gangOpen (s : State) (ctx : Nat) : Bool :=
  let c := s.ctx ctx
  !(c.word 34).getLsbD 63 || (Tab.get {} s.gangs (c.field 34 23 0)).begun

/-- Insert a core by its resulting load, then its number. -/
def insertCore (x : Nat × Nat) : List (Nat × Nat) → List (Nat × Nat)
  | [] => [x]
  | y :: t => if x.1 < y.1 then x :: y :: t else y :: insertCore x t

/-- The logical core of a launch at a position of its logical cluster (R24). -/
def Launch.lidAt (x : Launch) (lidClus pos : Nat) : Nat :=
  4 * lidClus + ((Tab.get [0, 1, 2, 3] x.corePos lidClus).findIdx? (· == pos)).getD pos

/-- The logical number that a hardware cluster has or takes in a launch (R24), and the map that says so. A number that blocks of
the launch on another cluster use, or saved ones, stays theirs: while a block that retires here has such a number the cluster takes no
other, since no two of its cores could be told apart then; the same while a block here has a number from an order of cores that the
blocks it stood with have since left for another (R399, R400: four blocks of a cluster have four core positions). Else the cluster keeps its own number, or takes the lowest one
that no block uses, whose cluster takes its old number. The map starts as the clusters that the context holds, in ascending
order (DESIGN CHOICE, log entry 57: R24 gives only the range). -/
def State.lidFor (s : State) (l cl : Nat) : Option (Nat × List Nat) :=
  let x := s.launch l
  let map := if x.placed = 0 then (s.ctx x.ctx).clusters else x.clusters
  let live := s.blocks.filter fun (_, b) => b.launch == l && b.st != .retired
  match live.find? fun (_, b) => clusterOf b.core == cl && b.st != .saved with
  | some (_, b) =>
    let elsewhere := live.any fun (_, y) => y.lidCore / 4 == b.lidCore / 4 && (y.st == .saved || clusterOf y.core != cl)
    let reordered := live.any fun (_, y) => y.st != .saved && clusterOf y.core == cl && x.lidAt (b.lidCore / 4) (y.core % 4) != y.lidCore
    if elsewhere || reordered then none else some (b.lidCore / 4, map)
  | none =>
    let unused (i : Nat) : Bool := !(live.any fun (_, b) => b.lidCore / 4 == i)
    let own := map.findIdx? (· == cl)
    let pick := match own with
      | some i => if unused i then some i else (List.range map.length).find? unused
      | none => (List.range map.length).find? unused
    pick.map fun j =>
      let was := (map[j]?).getD cl
      (j, (match own with | some i => map.set i was | none => map).set j cl)

/-! ### Translations (R26, R27, R328) -/

/-- The translation domain of a context, and the keep-registers choice (R327, R328). -/
def Ctx.trdom (c : Ctx) : Nat := c.field 1 27 16
def Ctx.keepRegs (c : Ctx) : Bool :=
  c.debugger || (List.range 32).any fun i => c.field (5 + i / 2) (32 * (i % 2) + 1) (32 * (i % 2)) == 2

/-- The translation of a launch for a class, if it is in the cache or in progress. -/
def State.transFor (s : State) (l cls : Nat) : Option (Nat × Trans) :=
  let x := s.launch l
  let c := s.ctx x.ctx
  List.find? (fun (_, t) => t.digest == x.digest && t.cls == cls && t.keep == c.keepRegs && t.dom == c.trdom
    && t.version == (s.domain c.trdom).version) s.trans

/-- Whether the cache holds a launch's translation for a core's class (R28, R332). -/
def State.codeReady (s : State) (l core : Nat) : Bool :=
  match s.transFor l (coreClass (s.core core).lmap) with | some (_, t) => t.done | none => false

/-- The cores of a hardware cluster for `c` blocks of a launch: (resulting load, core) in the order that ranks take them
(R363), or none when the cluster does not qualify (R362, R197, R246). -/
def State.clusterCores (s : State) (l cl c : Nat) : Option (List (Nat × Nat)) :=
  let x := s.launch l
  let hw := s.cluster cl
  let on := s.blocksOnCluster cl
  -- blocks whose barriers still have members (R195)
  let held := on.filter fun b => (s.block b).groups.any fun g => decide ((s.group g).grpid < 32) && !(s.group g).retired
  let cs := held.foldl (fun (acc : List Nat) b => if acc.contains (s.block b).clus then acc else (s.block b).clus :: acc) []
  if !hw.inService || hw.underTest || hw.preempt || !s.dieManaged (cl / 32) then none
  else if on.any fun b => (s.block b).launch != l then none
  else if (s.lidFor l cl).isNone then none
  else if 512 < 16 * (held.length + c) + 4 * (cs.length + 1) then none
  else if 16 < (on.length + c) * x.kernel.tiles then none
  else
    let ranked := (List.range 4).foldl (fun acc i =>
      match (if s.codeReady l (4 * cl + i) then s.loadWith x.ctx (4 * cl + i) x.kernel else none) with
      | some n => insertCore (n, 4 * cl + i) acc
      | none => acc) []
    if ranked.length < c then none else some (ranked.take c)

/-- The best hardware cluster for `c` blocks (R363): least largest load, then least sum, then lowest number. -/
def State.bestCluster (s : State) (l c : Nat) : Option (Nat × List (Nat × Nat)) :=
  let key (xs : List (Nat × Nat)) : Nat × Nat := (xs.foldl (fun m x => max m x.1) 0, xs.foldl (fun n x => n + x.1) 0)
  (List.range 128).foldl (fun best cl =>
    if !(s.ctx (s.launch l).ctx).clusters.contains cl then best
    else match s.clusterCores l cl c, best with
      | none, b => b
      | some xs, none => some (cl, xs)
      | some xs, some (m, ys) =>
        if (key xs).1 < (key ys).1 || ((key xs).1 == (key ys).1 && decide ((key xs).2 < (key ys).2)) then some (cl, xs)
        else some (m, ys)) none

/-! ### Creating blocks and groups -/

/-- The lanes of group `i` of a block: block lanes, and those with helpers (R104). -/
def blockLanes (k : Kernel) (i : Nat) : Mask :=
  let w := if k.l16 then 16 else 32
  maskOf fun l => decide (l < w) && decide (w * i + l < k.lanes)
def helperLanes (k : Kernel) (i : Nat) : Mask :=
  let w := if k.l16 then 16 else 32
  maskOf fun l => decide (l < w) && decide (k.lanes ≤ w * i + l) && decide (w * i + l < (k.lanes + 3) / 4 * 4)

/-- Field of a launch record (R355). -/
def Launch.field (x : Launch) (n hi lo : Nat) : Nat := nbits ((x.record[n]?).getD 0).toNat hi lo

/-- Blocks of a grid, and blocks of a launch cluster. -/
def Launch.nBlocks (x : Launch) : Nat := x.field 1 31 0 * x.field 1 63 32 * x.field 2 31 0
def Launch.csize (x : Launch) : Nat := x.field 2 34 32
def Launch.nClusters (x : Launch) : Nat := (x.nBlocks + x.csize - 1) / max 1 x.csize

/-- The half of group `i` of a block of `n` with `n0` on half 0: the first of them, or, where `n0` takes in the legacy group that has
no partner, the last one and the first pairs (R107). -/
def halfFor (l16 : Bool) (n n0 i : Nat) : Nat :=
  if l16 && n0 % 2 == 1 then (if i + 1 < n0 || i + 1 == n then 0 else 1) else if i < n0 then 0 else 1

/-- Group `i` of a block as it starts (R120, R357). `n0` groups stand on half 0. -/
def startGroup (x : Launch) (block lin core n0 i : Nat) : Group :=
  let k := x.kernel
  let m := blockLanes k i
  let h := helperLanes k i
  let woff := ((k.entries[k.lentry]?).getD ⟨0, 0⟩).woff
  let stk := x.field 5 31 0
  let lim := BitVec.ofNat 64 (x.field 4 63 0 + (lin * k.nGroups + i) * stk)
  { th := { pc := 8 * woff, body := k.bodyOf woff, exec := m, live := m ||| h, strand := m, outside := ~~~m },
    block := block, core := core, half := halfFor k.l16 k.nGroups n0 i, grpid := i, l16 := k.l16,
    stkptr := lim + BitVec.ofNat 64 stk, stklim := lim }

/-- A barrier with its members, at placement (R191, R192). -/
def newBarrier (members : List Nat) : Barrier := { members := members, expected := members.length }

/-- Add members to a barrier of a grid or cluster that is being placed. -/
def State.joinBarrier (s : State) (key : Nat) (gs : List Nat) : State :=
  let b : Barrier := Tab.get {} s.barriers key
  { s with barriers := s.barriers.put key { b with members := b.members ++ gs, expected := b.expected + gs.length } }

/-- The groups of a new block take part in the acquire of the launch's fetch (R355, R358): their core reads nothing older than the
stores required. Where groups of other blocks run on the core their snapshot stays as it is (R173; DEDUCED, log entry 12). -/
def State.launchAcquire (s : State) (g : Nat) : State :=
  let x := s.group g
  if s.groups.any fun (_, y) => y.core == x.core && !y.retired && y.block != x.block && (s.block y.block).st == .resident then
    s.requireStores g 5 10
  else s.acquire g 5 10

/-- Create one block on a core: its groups, its block barriers, and its place in the cluster's and the grid's barriers. -/
def State.startBlock (s : State) (l lin clus rank core lidClus : Nat) : State :=
  let x := s.launch l
  let k := x.kernel
  let b := Tab.fresh s.blocks
  let n0 := match s.splitOf core k with | some (n, _) => n | none => k.nGroups
  let scr := (s.scrHole core k.scratch).getD 0
  let g0 := Tab.fresh s.groups
  let gs := (List.range k.nGroups).map (g0 + ·)
  let blk : Block := { launch := l, lin := lin, rank := rank, clus := clus, core := core, lidCore := x.lidAt lidClus (core % 4),
                       scr := scr, st := .resident, groups := gs }
  let s := s.setBlock b blk
  let s := (List.range k.nGroups).foldl (fun s i => s.setGroup (g0 + i) (startGroup x b lin core n0 i)) s
  let s := (List.range 16).foldl (fun (s : State) n =>
    { s with barriers := s.barriers.put (barrierKey 1 b n) (newBarrier gs) }) s
  let s := (List.range 4).foldl (fun (s : State) n => s.joinBarrier (barrierKey 2 (l * 0x100000000 + clus) n) gs) s
  let s := if k.cosched then (List.range 2).foldl (fun (s : State) n => s.joinBarrier (barrierKey 3 l n) gs) s else s
  (s.fitWays core).launchAcquire g0

/-- Place the next launch cluster of a launch (R363); none when no hardware cluster qualifies now. -/
def State.placeNext (s : State) (l : Nat) : Option State :=
  let x := s.launch l
  let first := x.placed * x.csize
  let c := min x.csize (x.nBlocks - first)
  match s.bestCluster l c with
  | none => none
  | some (cl, cores) =>
    let (lid, map) := (s.lidFor l cl).getD (0, x.clusters)
    let s := s.setLaunch l { x with placed := x.placed + 1, clusters := map }
    some (cores.zipIdx.foldl (fun s ((_, core), r) => s.startBlock l (first + r) (first / max 1 x.csize) r core lid) s)

/-- Place `n` launch clusters, or none of them (R131). -/
def State.placeAll (s : State) (l : Nat) : Nat → Option State
  | 0 => some s
  | n + 1 => (s.placeNext l).bind fun s => s.placeAll l n

/-- The machine with every core empty and no drain in progress, and every cluster in service allotted to a context, to ask
whether a launch could ever fit (R130, R131): a share changes only timing (R364). -/
def State.emptied (s : State) (l : Nat) : State :=
  let ctx := (s.launch l).ctx
  let all := (List.range 128).filter fun c => (s.cluster c).inService
  { s with
    blocks := [], groups := [], barriers := [],
    contexts := s.contexts.put ctx { s.ctx ctx with clusters := all },
    trans := (List.range 16).map fun c =>
      (c, { digest := (s.launch l).digest, cls := c, keep := (s.ctx ctx).keepRegs, version := (s.domain (s.ctx ctx).trdom).version,
            dom := (s.ctx ctx).trdom, done := true, asking := false, generation := 0 }),
    cores := s.cores.mapVals fun _ k => { k with drain := false, fuseDue := false },
    clusters := s.clusters.mapVals fun _ c => { c with underTest := false, preempt := false } }

/-- LAUNCH_NO_FIT (R130, R131; DEDUCED, log entry 44). -/
def State.noFit (s : State) (l : Nat) : Bool :=
  let x := s.launch l
  decide (16 < x.csize * x.kernel.tiles) || ((s.emptied l).bestCluster l x.csize).isNone
    || (x.kernel.cosched && ((s.emptied l).placeAll l x.nClusters).isNone)

end Sys2Proof.Machine
end

