-- ==== Sys2Proof/Machine/Trans.lean ====
section
/-! DEFINITION. Translations: starting and completing them, their lines in a translation domain, peers, and re-optimisation (R25 to
R28, R327 to R330, R391). -/

namespace Sys2Proof.Machine

/-! ### Storage (R328) -/

/-- The class pairs among the cores that a context's blocks may take (R26, R328). -/
def State.classesOf (s : State) (ctx : Nat) : List Nat :=
  ((s.ctx ctx).clusters.flatMap fun cl => (List.range 4).map fun i => coreClass (s.core (4 * cl + i)).lmap).foldl
    (fun acc c => if c == 15 || acc.contains c then acc else acc ++ [c]) []

/-- Whether a launch's key names a translation, but for the class pair (R328). -/
def State.keyMatches (s : State) (l : Launch) (x : Trans) : Bool :=
  let c := s.ctx l.ctx
  x.digest == l.digest && x.keep == c.keepRegs && x.dom == c.trdom && x.version == (s.domain c.trdom).version

/-- Whether a translation is in use: by a block that has not retired, on a core of its class, or by a launch that goes on to place
blocks (R328). -/
def State.transInUse (s : State) (x : Trans) : Bool :=
  s.blocks.any (fun (_, b) => b.st != .retired && s.keyMatches (s.launch b.launch) x && coreClass (s.core b.core).lmap == x.cls)
    || s.launches.any fun (_, l) => (l.st == .translating || l.st == .placing) && s.keyMatches l x
        && (s.classesOf l.ctx).contains x.cls

/-- Write a translation's root slot: a name of the domain with its meta word, and the name's count follows (R277, R278). -/
def State.writeRoot (s : State) (dom slot : Nat) (n : Name) (len : Nat) : State :=
  let was := BitVec.ofNat 128 (mVal (s.homeBytes slot 16))
  let gen := (mVal (s.homeBytes (slot + 24) 4) + 1) % 2 ^ 32
  let s := s.incName dom n
  let s := s.agentWrite slot (leMBytes 16 n.toNat ++ leMBytes 8 len ++ leMBytes 8 gen)
  s.decName dom was

/-- Release pins on lines of a translation domain. -/
def State.unpinLines (s : State) (dom : Nat) (ns : List Name) : State := ns.foldl (fun s n => s.decName dom n) s

/-- Release the lines of a translation: their pins, and its root slot is empty again (R328). -/
def State.releaseTrans (s : State) (t : Nat) : State :=
  match s.trans.find? t with
  | none => s
  | some x =>
    let s := s.unpinLines x.dom x.lines
    let s := match x.slot with | some a => s.writeRoot x.dom a emptyName 0 | none => s
    { s with trans := s.trans.put t { x with lines := [], slot := none } }

/-- Unpin a translation: it leaves the cache. -/
def State.dropTrans (s : State) (t : Nat) : State :=
  let s := s.releaseTrans t
  { s with trans := s.trans.erase t }

/-- While a domain has fewer free lines than its threshold, the least recently used translation that is not in use is unpinned
(R328). `fuel` bounds how many go; `but` is one that is being stored. -/
def State.makeRoom (s : State) (dom : Nat) (but : Option Nat) : Nat → State
  | 0 => s
  | fuel + 1 =>
    if (s.domain dom).freeLines ≤ s.freeLines dom then s
    else
      let idle := s.trans.filter fun (i, x) => x.dom == dom && x.done && but != some i && !s.transInUse x
      match idle.foldl (fun (best : Option (Nat × Trans)) e =>
          match best with
          | some b => if e.2.used < b.2.used then some e else some b
          | none => some e) none with
      | some (t, _) => (s.dropTrans t).makeRoom dom but fuel
      | none => s

/-- Store a line of kind `k` with the semantics of NPUT, pinned (R282, R286, R329). -/
def State.storeLine (s : State) (dom k : Nat) (bs : List Byte) : Option Name × State :=
  match (s.domain dom).lookup bs k with
  | .found n => (some n, s.incName dom n)
  | .absent n => if s.freeOn dom (nameStack n) = 0 then (none, s) else (some n, s.allocLine dom n (bs.map fun b => ⟨b, false⟩))
  | .exhausted => (none, s)

/-- Lines of native code: how many and their bytes are free values, since native code is not architectural (DESIGN CHOICE, log entry
60). -/
def State.drawLines (s : State) : List (List Byte) × State :=
  let (q, s) := s.draw
  (List.range (1 + q % 16)).foldl (fun ((ls, s) : List (List Byte) × State) _ =>
    let (w, s) := s.draw
    (ls ++ [leBytes 256 w], s)) ([], s)

/-- The node line over up to 16 lines (R276): their names, and the empty name in every other place. -/
def nodeOver (ns : List Name) : List Byte :=
  (List.range 16).flatMap fun i => leBytes 16 ((ns[i]?).getD emptyName).toNat

/-- Store lines of kind 0 one by one: the names stored, and whether each found room. -/
def State.storeLines (s : State) (dom : Nat) (lines : List (List Byte)) : List Name × Bool × State :=
  lines.foldl (fun ((ns, ok, s) : List Name × Bool × State) bs =>
    match s.storeLine dom 0 bs with
    | (some n, s) => (ns ++ [n], ok, s)
    | (none, s) => (ns, false, s)) ([], true, s)

/-- Whether a translation domain is there, has VERIFY = 1 and has root slots (R328). -/
def State.trdomReady (s : State) (dom : Nat) : Bool :=
  (s.domains.find? dom).isSome && (s.domain dom).verify && !(s.domain dom).roots.isEmpty

/-- Store the lines of a translation's tree in its domain, and swap its root slot to the new tree: its own slot, or one that no
translation holds (R328, R330). One line is a tree of depth 0; several stand under a node line, at depth 1 (R276, R277). The pins of the
old tree are released then. Where the domain is missing or has VERIFY clear, or a line, the node or the root finds no room, nothing is
stored, and the answer is false: the translation has failed (R27; DESIGN CHOICE, log entry 60). -/
def State.storeTrans (s : State) (t : Nat) (lines : List (List Byte)) : Bool × State :=
  match s.trans.find? t with
  | none => (false, s)
  | some x =>
    let d := s.domain x.dom
    if !s.trdomReady x.dom then (false, s)
    else
      let s := s.makeRoom x.dom (some t) s.trans.length
      let (names, ok, s) := s.storeLines x.dom lines
      let (root, depth, s) : Option Name × Nat × State :=
        if names.length ≤ 1 then (names.head?, 0, s)
        else match s.storeLine x.dom 1 (nodeOver names) with
          | (some n, s) => (some n, 1, s)
          | (none, s) => (none, 0, s)
      let pins := if depth = 0 then names else root.toList ++ names
      let at_ (i : Nat) : Nat := (d.roots[i / 2048]?).getD 0 + 32 * (i % 2048)
      let free := (List.range (2048 * d.roots.length)).find? fun i => !(s.trans.any fun (_, y) => y.slot == some (at_ i))
      match (if ok then root else none), x.slot <|> free.map at_ with
      | some n, some a =>
        let s := s.writeRoot x.dom a n (256 * names.length + depth * 2 ^ 48)
        (true, { s.unpinLines x.dom x.lines with trans := s.trans.put t { x with lines := pins, slot := some a } })
      | _, _ => (false, s.unpinLines x.dom pins)

/-! ### Starting and completing (R27, R28) -/

/-- Start the translations of a launch that are neither in the cache nor in progress (R27, R329). -/
def State.startTrans (s : State) (l : Nat) : State :=
  let x := s.launch l
  let c := s.ctx x.ctx
  let d := s.domain c.trdom
  (s.classesOf x.ctx).foldl (fun s cls =>
    match s.transFor l cls with
    | some (t, e) => { s with trans := s.trans.put t { e with used := max e.used l } }
    | none =>
      let t : Trans := { digest := x.digest, cls := cls, keep := c.keepRegs, version := d.version, dom := c.trdom,
                         done := false, asking := !d.peers.isEmpty, generation := 0,
                         secver := x.kernel.secver, used := l }
      { s with trans := s.trans.put (Tab.fresh s.trans) t }) s

/-- A launch whose translations are all in the cache goes on to placement. -/
def State.transDone (s : State) (l : Nat) : State :=
  let x := s.launch l
  if x.st == .translating && (s.classesOf x.ctx).all fun cls =>
      (match s.transFor l cls with | some (_, t) => t.done | none => false) then
    s.modLaunch l fun x => { x with st := .placing }
  else s

/-- The translations that a class lacks are started for every launch under way, and a launch that now has all of its own goes on: after
a class, the keep-registers choice or the translator version has changed (R28, R327, R328, R386). -/
def State.retranslate (s : State) : State :=
  s.launches.foldl (fun (s : State) (l, x) =>
    match x.st with
    | .translating | .placing | .running => (s.startTrans l).transDone l
    | _ => s) s

/-- A tree as a peer sends it: its lines, and whether each hashes to its name with the domain's key (R275, R329). What a peer sends is a
free value (DESIGN CHOICE, log entry 60). -/
def State.fetchTree (s : State) (key : List Byte) : List (List Byte) × Bool × State :=
  let (ls, s) := s.drawLines
  let (good, s) := ls.foldl (fun ((ok, s) : Bool × State) bs =>
    let (h, s) := s.draw
    (ok && lineHash key bs 0 == h % 2 ^ 120, s)) (true, s)
  (ls, good, s)

/-- PEER_TRANSLATION_TIMEOUT (R329): the package translates locally. -/
def execPeerTranslationTimeout (t : Nat) (s : State) : Out :=
  match s.trans.find? t with
  | none => .next s
  | some x => .next { s with trans := s.trans.put t { x with asking := false } }

/-- Count the executing group's next virtual instruction to its translation (R330). -/
def State.countIssued (s : State) : State :=
  let x := s.grp
  if x.hnd.isSome then s
  else
    match s.transFor (s.block x.block).launch (coreClass (s.core x.core).lmap) with
    | some (i, t) => if t.done then { s with trans := s.trans.put i { t with issued := t.issued + 1 } } else s
    | none => s

/-- REOPTIMISE (R330): once the count has passed the domain's threshold a new translation is stored and the key's root slot swapped to
it; where it finds no room the old one stays. Nothing that a program observes changes (R25). -/
def execReoptimise (t : Nat) (s : State) : Out :=
  match s.trans.find? t with
  | none => .next s
  | some x =>
    if !x.done || x.issued ≤ (s.domain x.dom).reopt then .next s
    else
      let (lines, s) := s.drawLines
      let y : Trans := { x with generation := x.generation + 1, issued := 0 }
      .next ({ s with trans := s.trans.put t y }.storeTrans t lines).2

/-- The translations of objects below the kernel counter that are not in use are unpinned (R391). -/
def State.dropWithdrawn (s : State) : State :=
  (s.trans.filter fun (_, x) => decide (x.secver < s.kernelCounter) && !s.transInUse x).foldl
    (fun (s : State) (t, _) => s.dropTrans t) s

/-- A new kernel counter withdraws objects (R391): those in use follow when their last block retires. -/
def State.withdraw (s : State) : State := s.dropWithdrawn.retranslate

end Sys2Proof.Machine
end

