-- ==== Sys2Proof/Machine/Boundary.lean ====
section
/-! DEFINITION. The boundary before each instruction (R124, R132, R133, R148, R149, R311, R312, R339, R342), and the fetch
of the next instruction (R21, R45). -/

namespace Sys2Proof.Machine

/-- A group retires. The faults of its engine operations that no END joined go to the fault log (R133, R237). -/
def State.leaveGroup (s : State) (g : Nat) : State :=
  let x := s.group g
  let ctx := s.ctxOf g
  let func := (s.kernelOf x).funcIndex x.outer.body
  let s := (s.opsOf g).foldl (fun s (o, e) =>
    match e.fault with
    | some (c, va) =>
      (s.logFault ctx (s.faultRecord g c va false true x.outer.pc 0 func)).modOp o fun e => { e with fault := none }
    | none => s) s
  s.retireGroup g

/-- Unwind the stack of the executing group when its strand has ended (R124, R305, R311): a reconvergence, and a start at an abort
target, spend the rejoin charge when `exec` widens (R102, R322). -/
def State.unwindGrp (s : State) : State :=
  let x := s.grp
  match unwind (s.kernelOf x) x.th x.th.stack with
  | .retire t => (s.setGrp { x with th := t }).leaveGroup s.cur
  | .go t by_ =>
    let s := s.setGrp { x with th := t, abortc := if by_ == .aborted then x.region.codeOf t.exec else x.abortc }
    if by_ == .pending then s else s.chargeRejoin s.cur x.th.exec
  | .closed t target =>
    let am := x.region.am &&& ~~~t.ended
    let y : Group := { x with region := x.region.close, conflict := 0, ue := 0, th := t }
    if am &&& t.live = 0 then s.setGrp y
    else
      let z : Group := { y with th := { t with pc := target, exec := am, strand := am }, abortc := x.region.codeOf am }
      (s.setGrp z).chargeRejoin s.cur x.th.exec

/-- Whether the PC of a thread is a base word of its body (R149). -/
def State.pcGood (s : State) (x : Group) : Bool :=
  x.th.pc % 8 == 0 && (s.kernelOf x).inBody x.th.body (x.th.pc / 8)

/-- NOPREEMPT_OVERRUN is raised before the next instruction (R148, R331, R337): it names no lane, and first aborts an
open region. `faultva` is 0 (DESIGN CHOICE, log entry 53). -/
def State.raiseOverrun (s : State) : State :=
  let x := { s.grp with overrun := false }
  let x := if x.region.depth = 0 then x else x.abortAll (abFault fcNopreemptOverrun)
  let pc := x.th.pc
  (s.setGrp x).route s.cur
    { code := fcNopreemptOverrun, va := 0, lanes := 0, trap := 0, pc := pc, rte := pc, skip := pc, killed := 0, join := false }

/-- Take the errors in register storage that the executing group meets before its next virtual instruction (R338): the lanes named that are
live now are killed. A dead lane meets nothing, and is no lane of K. -/
def State.takeUpset (s : State) : State :=
  let m := s.grp.upset &&& s.th.live
  let s := s.setGrp { s.grp with upset := 0 }
  if m = 0 then s else s.kill m

/-- What the executing group does at an instruction boundary in place of its next instruction, in the order of R339
(DEDUCED, log entry 45). -/
def State.boundary (s : State) : Option State :=
  let x := s.grp
  let run := x.hnd.isNone
  if run && x.upset != 0 then some s.takeUpset
  else if x.conflictDue then some (s.setGrp x.takeConflict)
  else if x.preemptDue then some (s.setGrp x.takePreempt)
  else if run && x.th.spent then some (s.leaveGroup s.cur)
  else if run && x.th.strandEnds then some s.unwindGrp
  else if run && x.overrun then some s.raiseOverrun
  else if !s.pcGood x then
    some (s.raise 0 (x.th.exec &&& x.th.live) fcIllegalPc (BitVec.ofNat 64 x.th.pc))
  else none

/-- The instruction at the executing group's PC. -/
def State.fetch (s : State) : Except DecodeError Instr := instrAt (s.kernelOf s.grp).code s.th.word

/-- The idempotent regions of a list that a group is still in, at word `w` of the call frame of depth `d`: those of callees that have
returned go, and so does the frame's own when the word lies outside it (R342). -/
def Kernel.idemAt (k : Kernel) (w d : Nat) (es : List Idem) : List Idem :=
  es.filter fun e => decide (e.th.depth < d)
    || (e.th.depth == d && k.idem.any fun (p, q) => p == e.start && decide (p ≤ w ∧ w < q))

/-- Note the checkpoint of an idempotent region at its START, which is a commit point (R323), in place of the frame's last one, and
forget those that the group has left (R342). -/
def State.noteIdem (s : State) : State :=
  let x := s.grp
  let w := x.th.word
  let k := s.kernelOf x
  if x.hnd.isSome then s
  else match k.idem.find? fun r => r.1 == w with
    | some (a, _) =>
      let s := s.flush s.cur
      let e : Idem := { start := a, th := x.th, ptr := x.stkptr, region := x.region, perf := x.perf, nextOp := Tab.fresh s.ops,
                        conflict := x.conflict, ue := x.ue }
      s.setGrp { s.grp with idem := e :: x.idem.filter fun y => decide (y.th.depth < x.th.depth) }
    | none =>
      let left := k.idemAt w x.th.depth x.idem
      if left.length = x.idem.length then s else s.setGrp { x with idem := left }

/-- Whether an instruction is a commit point by the list of R323; QPOP's falls after its claim. -/
def pointInstr (i : Instr) : Bool :=
  match i with
  | .fence _ | .atom _ | .atoms _ | .atomp _ | .acas _ | .acass _ | .red _ | .reds _ | .barv _ | .barw _ | .bars _ | .barq _
  | .waitc _ | .cpy _ | .cpyx _ | .cpya _ | .cpyd _ | .chcfg _ | .wmark _ | .yieldc _ | .fsend _ | .spred _
  | .mma _ | .tzero _ | .tload _ | .tdrain _ | .qpop _ | .qstore _ | .qsend _ | .qstat _
  | .nput _ | .nhash _ | .nget _ | .nroot _ | .nswap _ | .npin _ | .nunpin _ | .nbind _ | .nunbind _ | .ncopy _ | .nstat _
  | .tryOp _ | .commit _ | .spawn _ | .yield _ | .endOp _ | .trap _ | .bkpt _ | .npbeg _ | .npend _ | .dbgLog _ | .dbgHalt _
  | .rte _ | .rteSkip _ | .rteEnd _ | .rteAbort _ => true
  | _ => false

/-- The active lanes that a group's next instruction has. -/
def State.nextAct (s : State) (i : Instr) : Mask := s.th.act ((i.toRaw.map (·.guard)).getD Guard.always)

/-- The commit points of R323 at places: an entry point or the start of a function body, and an instruction of the list that
performs nothing for want of an active lane. One that performs makes its commit point itself. -/
def State.notePlace (s : State) (i : Instr) : State :=
  if (s.kernelOf s.grp).entries.any (fun e => e.woff == s.th.word) || (pointInstr i && s.nextAct i == 0) then s.flush s.cur else s

/-- Whether a form is a group instruction of the vector unit (R41, R43, R101): the vector forms of the arithmetic and cross-lane
classes but for LGET and LPUT, which execute once (R114), and the accesses, PREF and EVICT, atomics, special-register reads and pops that name
lanes. That SGET has passes and a TSTAT of a code has none is a DESIGN CHOICE (log entry 14). -/
def vectorForm (r : Raw) : Bool :=
  let op := r.op.toNat
  (decide (op < 0x40) && !r.fn.getLsbD 5) || (decide (0x40 ≤ op ∧ op < 0x60) && op != 0x56 && op != 0x57)
    || ((decide (0x70 ≤ op ∧ op ≤ 0x76) || decide (0x90 ≤ op ∧ op ≤ 0x96)) && !r.m8.getLsbD 4)
    || op == 0x77 || (op == 0x78 && !r.m8.getLsbD 1)
    || op == 0xC4 || (op == 0xE8 && !r.fn.getLsbD 5)

/-- Whether an instruction translates addresses of its group, which may miss the core TLB (R159, R349). -/
def translates (i : Instr) : Bool :=
  match i with
  | .ld _ | .st _ | .pref _ | .evict _ | .atom _ | .acas _ | .red _ | .cpyx _ | .cpya _ | .cpyd _ | .nroot _ | .nswap _ | .nbind _ => true
  | _ => false

/-- Whether a legacy group may issue together with the other group of its pair, on a half where that takes a second pass: the other is on
the half too, and has not retired (R107). -/
def State.mayPair (s : State) (x : Group) : Bool :=
  x.l16 && x.hnd.isNone && decide (x.grpid < 32) && decide (goodLanes (s.core x.core).lmap x.half < 32)
    && (s.block x.block).groups.any fun g =>
        let y := s.group g
        !y.retired && y.hnd.isNone && y.grpid == x.grpid + 1 - 2 * (x.grpid % 2) && y.half == x.half

/-- Whether the next vector instruction of the executing group issues paired: timing, and so a free value (R107; DESIGN CHOICE, log
entry 14). -/
def State.drawPair (s : State) : Bool × State :=
  if s.mayPair s.grp then
    let (q, s) := s.draw
    (q.testBit 0, s)
  else (false, s)

/-- Note the passes that an instruction of the executing group issues, to be counted when it completes (R101, R349): those with an
active lane, twice in a redundant context (R383). A window of a legacy pair takes two passes, so that a group with active lanes in one
of them may count both (R107; DESIGN CHOICE, log entry 14). A rejoin charge that an abort has left due is spent (R322). -/
def State.notePasses (s : State) (i : Instr) : State :=
  let vec := (i.toRaw.map vectorForm).getD false
  let (paired, s) := if vec then s.drawPair else (false, s)
  let x := { s.grp with paired := paired }
  let lmap := (s.core x.core).lmap
  let times := if (s.ctx (s.ctxOf s.cur)).redundant then 2 else 1
  let n := passesOf lmap x.half x.window (s.nextAct i)
  let y := if x.charge && x.hnd.isNone then { x.count 4 (rejoinCharge lmap x.half) with charge := false } else x
  let y := if translates i && s.nextAct i != 0 then y.owe 7 1 else y
  let y := if paired && n = 1 then y.owe 1 times else y
  s.setGrp { y with passes := if vec then times * n else 0 }

/-- What is noted before an instruction is performed: idempotent regions, commit points, the count of its translation, and its
passes (R101, R323, R330, R342). -/
def State.noteIssue (s : State) (i : Instr) : State :=
  (((s.noteIdem.notePlace i).notePoint s.cur).countIssued).notePasses i

end Sys2Proof.Machine
end

