-- ==== Sys2Proof/Machine/Copy.lean ====
section
/-! DEFINITION. Copy and fabric instructions, opcodes 0xB0 to 0xB8, and the events that end their waits (R210 to R213,
R220, R221, R233 to R242). -/

namespace Sys2Proof.Machine

/-- Perform a copy-class instruction of `n` bytes: uniform, UNSUPPORTED in a region (R242), and a commit point. -/
def State.copyClass (s : State) (n : Nat) (k : Mask → State → State) : Out :=
  s.perform Guard.always n fun act s => s.orUnsupported act fun s => k act (s.flush s.cur)

/-- Issue an operation on a channel and go on; one with nothing to move finishes at once (R234, R241). -/
def State.issueCopy (s : State) (n c : Nat) (kind : OpKind) (empty : Bool) : State :=
  (s.newOp (some c) kind false (if empty then .finished else .queued)).2.advance n

/-- The first bounds fault of an operation of the executing group (R236 check 5). -/
def State.issueBounds (s : State) (kind : OpKind) : Option Nat :=
  (opPlan kind).bind fun p =>
    match kind with
    | .fsend .. | .spred .. => s.outOfBounds s.grp.block p.ssp p.ssz (p.elems.map (·.src))
    | _ => s.planBounds s.grp.block p

/-- The first value that is not a multiple of `k`. -/
def firstMisaligned (k : Nat) (vs : List Nat) : Option Nat := vs.find? fun v => v % k != 0

/-- Issue a copy without a record: MISALIGNED, SCRATCH_BOUNDS, then the operation (R236). A full channel or counter holds the
group before the checks, whatever the length (R201, R210; DESIGN CHOICE, log entry 56). -/
def State.checkedCopy (s : State) (act : Mask) (n c : Nat) (bad : Option Nat) (kind : OpKind) (empty : Bool) : State :=
  if s.chanFull c then s.waitHere .hold
  else match bad with
    | some v => s.raise n act fcMisaligned (BitVec.ofNat 64 v)
    | none =>
      match s.issueBounds kind with
      | some v => s.raise n act fcScratchBounds (BitVec.ofNat 64 v)
      | none => s.issueCopy n c kind empty

/-- CPY (R234, R236). -/
def execCpy (f : CpyOp) (s : State) : Out :=
  s.copyClass (ilen f.ext) fun act s =>
    let r := s.th.regs
    let src := r.scal f.a.toNat
    let dst := r.scal f.d.toNat
    let n := s.env.uval f.len 32
    s.checkedCopy act (ilen f.ext) f.ch.toNat (firstMisaligned 4 [src.toNat, dst.toNat, n]) (.cpy f.dsp f.ssp dst src n)
      (n == 0)

/-- FSEND (R227, R236, R241). -/
def execFsend (f : FabOp) (s : State) : Out :=
  s.copyClass (ilen f.ext) fun act s =>
    let r := s.th.regs
    let src := r.scal f.a.toNat
    let n := s.env.uval f.len 32
    s.checkedCopy act (ilen f.ext) f.ch.toNat (firstMisaligned 4 [src.toNat, n])
      (.fsend f.inScr (r.scal f.d.toNat) src n) (n == 0)

/-- SPRED (R228, R236, R241): a fabric address with a nonzero OFF is misaligned. -/
def execSpred (f : FabOp) (s : State) : Out :=
  s.copyClass (ilen f.ext) fun act s =>
    let r := s.th.regs
    let src := r.scal f.a.toNat
    let fab := r.scal f.d.toNat
    let n := s.env.uval f.len 32
    let bad := (firstMisaligned 8 [src.toNat]).or (if fabOff fab.toNat != 0 then some fab.toNat else none)
    s.checkedCopy act (ilen f.ext) f.ch.toNat bad (.spred f.inScr fab src n) (n == 0)

/-! ### Records (R220) -/

/-- What reading a record came to. -/
inductive RecRead
  | words (ws : List DWord)
  | waits (on : List (Nat × Nat))
  | fault (code : Nat)
  | poisoned
  deriving DecidableEq, Repr

/-- Read one word of a record as a load of the group (R166, R212, R213). -/
def State.recWord (s : State) (inScr : Bool) (a : Nat) : RecRead × State :=
  let (t, s) := s.target (if inScr then .own else .glob) a 8 .load
  match t with
  | .error f => (.fault f.code, s)
  | .ok t =>
    match s.waitsOn 8 [(0, t)] with
    | [] =>
      let (bs, s) := s.loadTarget t 8 false
      (if anyPoison bs then .poisoned else .words [BitVec.ofNat 64 (mVal bs)], s)
    | w => (.waits w, s)

/-- Read the words of a record from word `i` on: eight words, then steps up to the END or the eighth. -/
def State.recWords (s : State) (inScr : Bool) (a : Nat) : Nat → Nat → List DWord → RecRead × State
  | 0, _, acc => (.words acc, s)
  | n + 1, i, acc =>
    match s.recWord inScr (a + 8 * i) with
    | (.words [w], s) =>
      if 8 ≤ i && w.toNat % 256 == 0 then (.words (acc ++ [w]), s) else s.recWords inScr a n (i + 1) (acc ++ [w])
    | (r, s) => (r, s)

/-- The checks of R236 items 3 to 5 on a record's snapshot: code and `faultva`, or none. -/
def State.recFault (s : State) (kind : Nat) (at_ : Nat) (ws : List DWord) : Option (Nat × Nat) :=
  match planRecord kind ws with
  | none => some (fcCopyRecordBad, at_)
  | some p =>
    let src := recField ws 0 63 0
    let dst := recField ws 1 63 0
    if src % p.ssz != 0 then some (fcMisaligned, src)
    else if dst % p.dsz != 0 then some (fcMisaligned, dst)
    else (s.planBounds s.grp.block p).map fun a => (fcScratchBounds, a)

/-- CPYX, CPYA and CPYD: snapshot, checks, issue (R220, R235, R236). A record that holds poisoned bytes clears `live` as a load's would
(R185, R220); the copy is not queued, and the group goes on (DEDUCED, log entry 79). -/
def State.copyRecord (s : State) (f : CpyRecOp) (kind : Nat) : Out :=
  let n := ilen f.ext
  s.copyClass n fun act s =>
    let at_ := (s.th.regs.scal f.a.toNat).toNat
    if s.chanFull f.ch.toNat then s.waitHere .hold
    else if at_ % 64 != 0 then s.raise n act fcMisaligned (BitVec.ofNat 64 at_)
    else match s.recWords f.inScr at_ 16 0 [] with
      | (.fault c, s) => s.raise n act c (BitVec.ofNat 64 at_)
      | (.waits w, s) => s.waitHere (.watermark w)
      | (.poisoned, s) => (s.advance n).kill s.th.live
      | (.words ws, s) =>
        match s.recFault kind at_ ws with
        | some (c, va) => s.raise n act c (BitVec.ofNat 64 va)
        | none => s.issueCopy n f.ch.toNat (.copyRec kind f.clr ws) false

/-- CPYX (R235). -/
def execCpyx (f : CpyRecOp) (s : State) : Out := s.copyRecord f 0
/-- CPYA (R223, R235). -/
def execCpya (f : CpyRecOp) (s : State) : Out := s.copyRecord f 1
/-- CPYD (R225, R235). -/
def execCpyd (f : CpyRecOp) (s : State) : Out := s.copyRecord f 2

/-! ### CHCFG, WMARK, YIELDC -/

/-- The finished operations of a channel of a block: every one of them, since a group that joins the channel joins the additions of those too
that their own group has joined before (R224, R238, R240). -/
def State.chanOps (s : State) (b c : Nat) : List Nat :=
  (s.ops.filter fun (_, o) => o.block == b && o.chan == some c && o.st == .finished).map (·.1)

/-- The check of CHCFG (R238): code and `faultva`. -/
def State.chcfgFault (s : State) (sp : CSpace) (base len : Nat) : Option (Nat × Nat) :=
  if base % 128 != 0 then some (fcMisaligned, base)
  else if len % 128 != 0 then some (fcMisaligned, len)
  else match sp with
    | .own => if s.scratchOf s.grp.block < base + len then some (fcScratchBounds, base) else none
    | .bstore => if 8388608 < base + len then some (fcScratchBounds, base) else none
    | _ => if 2 ^ 56 ≤ base ∨ 2 ^ 56 < base + len then some (fcPageNotPresent, base) else none

/-- CHCFG (R238): it waits until its channel is idle, joins, and then configures it. -/
def execChcfg (f : ChcfgOp) (s : State) : Out :=
  s.copyClass (ilen f.ext) fun act s =>
    let c := f.ch.toNat
    let b := s.grp.block
    if !(s.chan b c).queue.isEmpty then s.waitHere (.chcfg c)
    else s.joinThen (s.chanOps b c) fun s =>
      let base := (s.th.regs.scal f.a.toNat).toNat
      let len := (s.th.regs.scal f.b.toNat).toNat % 2 ^ 32
      match s.chcfgFault f.sp base len with
      | some (code, va) => s.raise (ilen f.ext) act code (BitVec.ofNat 64 va)
      | none =>
        (s.setChan b c { space := f.sp, base := base, len := len, wexp := f.w.toInt, clipf := false, nanf := false,
                         filled := [], queue := [], sids := [] }).advance (ilen f.ext)

/-- The status of a channel (R239). -/
def Channel.status (c : Channel) : DWord :=
  BitVec.ofNat 64 ((if c.nanf then 2 ^ 34 else 0) + (if c.clipf then 2 ^ 33 else 0)
    + (if c.queue.isEmpty then 0 else 2 ^ 32) + c.wm)

/-- Join the writes of a channel below its watermark (R213, R239). -/
def State.joinChannel (s : State) (b c : Nat) : State :=
  let k := s.block b
  let ch := s.chan b c
  let wm := ch.wm
  let pieces := (s.ops.filter fun (_, o) => o.block == b && o.chan == some c).flatMap fun (_, o) =>
    o.wrote.flatMap fun w => (List.range w.bytes.length).filterMap fun i =>
      match ch.offset b (clusterOf k.core) (w.va.toNat + i) (w.loc + i) with
      | some off => if off < wm then some (w.loc + i) else none
      | none => none
  pieces.foldl (fun s a => s.joinBytes b c a 1) s

/-- WMARK (R239): it never waits. -/
def execWmark (f : WmarkOp) (s : State) : Out :=
  s.copyClass (ilen f.ext) fun _ s =>
    let c := f.ch.toNat
    let b := s.grp.block
    let v := (s.chan b c).status
    let s := s.joinChannel b c
    let s := if f.clr then s.modChan b c fun k => { k with clipf := false, nanf := false } else s
    (s.setRegs (s.th.regs.setScal f.d.toNat v)).advance (ilen f.ext)

/-- YIELDC (R240): the group's PC becomes the continuation, where it waits until the channel is idle. On an idle channel it joins
the channel's operations and goes on at once; a fault of its own operations is reported at the YIELDC (R337). It completes, and is
counted, when the join does (R349). -/
def execYieldc (f : YieldcOp) (s : State) : Out :=
  s.copyClass 16 fun _ s =>
    let c := f.ch.toNat
    let b := s.grp.block
    if !(s.chan b c).queue.isEmpty then (s.setTh { s.th with pc := s.th.target f.target }).waitHere (.yieldc c s.th.pc)
    else s.joinThen (s.chanOps b c) fun s => s.jump (s.th.target f.target)

/-! ### The events that end a wait: the instruction is performed again -/

/-- A group of which a condition holds is ready again. -/
def State.wakeIf (s : State) (g : Nat) (ok : Group → Bool) : State :=
  let x := s.group g
  if !x.retired && ok x then s.setGroup g { x with wait := .none } else s

/-- Whether a channel of a group's block is idle. -/
def State.chanIdle (s : State) (x : Group) (c : Nat) : Bool := (s.chan x.block c).queue.isEmpty

/-- YIELDC_RESUME (R240): the parked group joins every operation of the channel and is ready at its continuation; a fault of its
own operations is delivered first, at the YIELDC, which `rte` executes again (R337), as the group does when the fault aborts its
region (R331). -/
def execYieldcResume (g : Nat) (s : State) : Out :=
  let x := s.group g
  match x.wait with
  | .yieldc c pc =>
    if x.retired || !s.chanIdle x c then .next s
    else
      let (fault, s) := s.joinPoint g (s.chanOps x.block c)
      let s := s.modGroup g fun x => { x with wait := .none }
      match fault with
      | .done => .next (s.modGroup g Group.completed)
      | .abort code =>
        .next (s.modGroup g fun x =>
          let y := x.abortAll (abFault code)
          { y with th := { y.th with pc := y.after x pc } })
      | .fault code va =>
        .next (s.route g { code := code, va := va, lanes := 0, trap := 0, pc := pc, rte := pc, skip := pc, killed := 0,
                           join := true })
  | _ => .next s

/-- CHCFG_RESUME (R238). -/
def execChcfgResume (g : Nat) (s : State) : Out :=
  .next (s.wakeIf g fun x => match x.wait with | .chcfg c => s.chanIdle x c | _ => false)

/-- END_ENGINE_JOIN (R237): every engine operation of the group has finished. -/
def execEndEngineJoin (g : Nat) (s : State) : Out :=
  .next (s.wakeIf g fun x => x.wait == .endJoin && (s.opsOf g).all fun (_, o) => o.st == .finished)

/-- Whether a watermark wait is over: each byte's channel is idle or its watermark has passed the byte (R212). -/
def State.watermarkPassed (s : State) (x : Group) (on : List (Nat × Nat)) : Bool :=
  on.all fun (c, o) => s.chanIdle x c || decide (o < (s.chan x.block c).wm)

/-- WATERMARK_WAIT_END (R212). -/
def execWatermarkWaitEnd (g : Nat) (s : State) : Out :=
  .next (s.wakeIf g fun x => match x.wait with | .watermark on => s.watermarkPassed x on | _ => false)

/-- YIELD_RESUME (R144). -/
def execYieldResume (g : Nat) (s : State) : Out := .next (s.wakeIf g fun x => x.wait == .yield)

end Sys2Proof.Machine
end

