-- ==== Sys2Proof/Machine/Launch.lean ====
section
/-! DEFINITION. Queues, launches and grids: kicks and slots, fetching and checking a launch record, translations, placing
and retiring blocks, and completing a grid (R50, R130 to R132, R353 to R361). -/

namespace Sys2Proof.Machine

/-! ### User queues (R353, R354, R360, R361) -/

/-- The key of queue `q` of a context. -/
def queueKey (ctx q : Nat) : Nat := 512 * ctx + q

def State.queue (s : State) (ctx q : Nat) : UQueue := Tab.get {} s.queues (queueKey ctx q)

/-- Replace a queue. While it is unmapped, and at each change of its slot, its control block in memory takes RD, WR, the
state bits and TPEND (R353, R360). -/
def State.setQueue (s : State) (ctx q : Nat) (x : UQueue) : State :=
  let old := s.queue ctx q
  let s := { s with queues := s.queues.put (queueKey ctx q) x }
  if x.slot.isSome && old.slot == x.slot then s
  else
    let at_ := (s.ctx ctx).field 35 51 0 + 64 * q
    let bits := (if x.pend then 1 else 0) + (if x.slot.isSome then 2 else 0) + (if x.err then 4 else 0)
      + 256 * x.slot.getD 0
    s.agentWrite (at_ + 16) (leMBytes 8 (x.rd.toNat + x.wr.toNat * 2 ^ 32) ++ leMBytes 8 bits ++ leMBytes 8 x.tpend)

/-- An unmapped queue as its control block in memory has it, which system software may have written (R353, R360). -/
def State.readQcb (s : State) (ctx q : Nat) : State :=
  let x := s.queue ctx q
  if x.slot.isSome || (s.contexts.find? ctx).isNone then s
  else
    let at_ := (s.ctx ctx).field 35 51 0 + 64 * q
    let w (i : Nat) : Nat := (s.homeWord (at_ + 8 * i)).toNat
    let y : UQueue :=
      { x with enabled := nbits (w 1) 32 32 == 1, base := BitVec.ofNat 64 (w 0), log2 := nbits (w 1) 4 0,
               prio := nbits (w 1) 11 8, rd := BitVec.ofNat 32 (nbits (w 2) 31 0),
               wr := BitVec.ofNat 32 (nbits (w 2) 63 32), pend := nbits (w 3) 0 0 == 1, err := nbits (w 3) 2 2 == 1,
               tpend := w 4 }
    let s := s.notePhys at_ 64
    if y = x then s else { s with queues := s.queues.put (queueKey ctx q) y }

/-- Every unmapped queue of a context as its control block has it (R353). -/
def State.readQcbs (s : State) (ctx : Nat) : State :=
  (List.range ((s.ctx ctx).field 36 9 0)).foldl (fun s q => s.readQcb ctx q) s

/-- The enabled queues of a context, with their numbers. -/
def State.queuesOf (s : State) (ctx : Nat) : List (Nat × UQueue) :=
  (s.queues.filter fun (k, x) => k / 512 == ctx && x.enabled).map fun (k, x) => (k % 512, x)

/-- The effective priority of a queue at a tick (R361). -/
def UQueue.effective (x : UQueue) (tick : Nat) : Nat := if x.slot.isSome then x.prio else min 15 (x.prio + (tick - x.tpend))

def UQueue.drained (x : UQueue) : Bool := x.slot.isSome && x.rd == x.wr && !x.pend

/-- The first element of a list that no other is better than. -/
def pickBest {α : Type} (better : α → α → Bool) : List α → Option α
  | [] => none
  | x :: t =>
    match pickBest better t with
    | none => some x
    | some y => if better y x then some y else some x

/-- Hardware slots that no queue holds (DEDUCED, log entry 44). -/
def State.openSlot (s : State) : Option Nat :=
  (List.range 16).find? fun i => !(s.queues.any fun (_, x) => x.slot == some i)

/-- Map a queue to a slot: PEND clears (R361). -/
def State.mapQueue (s : State) (ctx q slot : Nat) : State :=
  s.setQueue ctx q { s.queue ctx q with slot := some slot, pend := false, mapTick := s.tick }

/-- Unmap a queue: with records left it pends from now on (R360). -/
def State.unmapQueue (s : State) (ctx q : Nat) : State :=
  let x := s.queue ctx q
  s.setQueue ctx q
    (if x.wr == x.rd then { x with slot := none } else { x with slot := none, pend := true, tpend := s.tick })

/-- The loop of R361 for one context; `fuel` bounds its rounds. -/
def State.remap (s : State) (ctx : Nat) : Nat → State
  | 0 => s
  | fuel + 1 =>
    let qs := s.queuesOf ctx
    let eff (x : UQueue) : Nat := x.effective s.tick
    let pending := qs.filter fun (_, x) => x.slot.isNone && x.pend
    let mapped := qs.filter fun (_, x) => x.slot.isSome
    match pickBest (fun a b => decide (eff b.2 < eff a.2) || (eff a.2 == eff b.2 && (decide (a.2.tpend < b.2.tpend)
        || (a.2.tpend == b.2.tpend && decide (a.1 < b.1))))) pending with
    | none => s
    | some (u, x) =>
      let lowSlot (a b : Nat × UQueue) : Bool := decide (a.2.slot.getD 0 < b.2.slot.getD 0)
      let reserved := (s.ctx ctx).field 33 27 24 + 1
      match (if mapped.length < reserved then s.openSlot else none) with
      | some k => (s.mapQueue ctx u k).remap ctx fuel
      | none =>
        let swap (m : Nat) (y : UQueue) : State := ((s.unmapQueue ctx m).mapQueue ctx u (y.slot.getD 0)).remap ctx fuel
        match pickBest lowSlot (mapped.filter fun (_, y) => y.drained) with
        | some (m, y) => swap m y
        | none =>
          match pickBest (fun a b => decide (eff a.2 < eff b.2) || (eff a.2 == eff b.2 && lowSlot a b))
              (mapped.filter fun (_, y) => decide (2 ≤ s.tick - y.mapTick)) with
          | none => s
          | some (m, y) => if eff x ≤ eff y then s else swap m y

/-- Run R361 for a context, on its queues as their control blocks have them (R353). -/
def State.mapQueues (s : State) (ctx : Nat) : State :=
  let s := s.readQcbs ctx
  s.remap ctx (2 * (s.queuesOf ctx).length + 2)

/-- Run R361 for each context: at a kick that sets PEND, at a drain, and at a tick. -/
def State.mapAll (s : State) : State := s.contexts.foldl (fun s (c, _) => s.mapQueues c) s

/-- The context that a PCIe function carries (R352): with SR-IOV function n + 1 carries context n; without it the
physical function carries the one context that exists. -/
def State.ctxOfFn (s : State) (fn : Nat) : Option Nat :=
  if s.sriov then (if 0 < fn && (s.contexts.find? (fn - 1)).isSome then some (fn - 1) else none)
  else if fn = 0 then (match s.contexts with | (c, _) :: _ => some c | [] => none) else none

/-- KICK (R354): a write of WR to a queue's kick register. -/
def execKick (fn q : Nat) (value : BitVec 32) (s : State) : Out :=
  match s.ctxOfFn fn with
  | none => .next s
  | some ctx =>
    let c := s.ctx ctx
    let s := if q < c.field 36 9 0 then s.readQcb ctx q else s
    let x := s.queue ctx q
    if c.field 36 9 0 ≤ q || !x.enabled then .next s
    else if 2 ^ x.log2 < (value - x.rd).toNat || 2 ^ 31 ≤ (value - x.wr).toNat then
      .next ((s.setQueue ctx q { x with err := true }).signal (s.fnOf ctx) (c.field 37 13 8))
    else if x.slot.isSome then .next (s.setQueue ctx q { x with wr := value })
    else if x.pend then .next (s.setQueue ctx q { x with wr := value })
    else .next ((s.setQueue ctx q { x with wr := value, pend := true, tpend := s.tick }).mapAll)

/-- SCHEDULING_TICK (R361). -/
def execSchedulingTick (s : State) : Out :=
  .next ({ s with tick := s.tick + 1 }.mapAll)

/-! ### Finishing a launch (R356, R359) -/

/-- Write 8 bytes to a context's memory as system software does. -/
def State.putWord (s : State) (ctx va v : Nat) : Bool × State := s.writeVirtual ctx va (leBytes 8 v)

/-- Store the completion signal and signal VEC (R359 steps 3 and 4). A page that is not present goes to the page service:
it may resolve the page later (then the launch tries again), or declare the fault unresolvable. -/
def State.sendSignal (s : State) (l : Nat) : State :=
  let x := s.launch l
  let done (s : State) : State :=
    let s := s.modLaunch l fun x => { x with st := .finished }
    if x.field 2 41 41 = 1 then s.signal (s.fnOf x.ctx) (x.field 2 53 48) else s
  let at_ := x.field 10 63 0
  if at_ = 0 then done s
  else
    let (ok, s) := s.putWord x.ctx at_ (x.field 11 63 0)
    if ok then done s
    else
      let (q, s) := s.draw
      if q % 2 = 0 then s.modLaunch l fun x => { x with st := .signalling } else done s

/-- A launch finishes with a status: word 12 of its record, then the signal (R359). Where the record's page cannot be written, the
status is lost and the signal goes out all the same (DESIGN CHOICE, log entry 99). Translations of withdrawn objects that it alone kept in
use are unpinned (R391). -/
def State.finishLaunch (s : State) (l status where_ : Nat) : State :=
  let x := s.launch l
  let s := s.modLaunch l fun x => { x with status := status }
  let word := status + where_ % 2 ^ 32 * 256 + 2 ^ 63
  (((s.putWord x.ctx (x.addr.toNat + 96) word).2).sendSignal l).dropWithdrawn

/-! ### The end of a translation (R27, R329) -/

/-- Whether a launch waits on a translation: it is in its translation step, it has placed none of its blocks, or a block of it is on a
core of that class or saved. -/
def State.needsTrans (s : State) (l : Nat) (x : Trans) : Bool :=
  let y := s.launch l
  s.keyMatches y x && (s.classesOf y.ctx).contains x.cls
    && (y.st == .translating || (y.st == .placing && y.placed == 0 && !y.aborted)
      || ((y.st == .placing || y.st == .running) && !y.aborted && s.blocks.any fun (_, b) => b.launch == l
          && b.st != .retired && (b.st == .saved || coreClass (s.core b.core).lmap == x.cls)))

/-- The load statuses of R50. -/
def loadStatuses : List Nat := [ldEncoding, ldHeader, ldSection, ldSignature, ldWithdrawn, ldResource, ldEntry]

/-- Fail a launch with a load status: at once while nothing of it is placed, else when its blocks have stopped (R27). -/
def State.failLoad (s : State) (l status : Nat) : State :=
  if (s.launch l).placed = 0 then s.finishLaunch l status 0 else s.stopGrid l status

/-- A translation fails: every launch that waits on it fails with one load status, and it leaves the cache (R27). No rule names the
status: it is a free value among the load statuses (DESIGN CHOICE, log entry 60). -/
def State.failTrans (s : State) (t : Nat) (x : Trans) : State :=
  let (q, s) := s.draw
  let status := (loadStatuses[q % 7]?).getD ldResource
  let gone := { s with trans := s.trans.erase t }
  (s.launches.filter fun (l, _) => s.needsTrans l x).foldl (fun s (l, _) => s.failLoad l status) gone

/-- TRANSLATION_COMPLETE (R27, R329): the launches that wait on the translation go on, or all fail. While the peer question is open it is a
peer's answer: every line is hashed again, and the package translates locally where a name does not match; else those lines are
stored. -/
def execTranslationComplete (t : Nat) (s : State) : Out :=
  match s.trans.find? t with
  | none => .next s
  | some x =>
    let (lines, good, s) :=
      if x.asking then s.fetchTree (s.domain x.dom).key
      else
        let (ls, s) := s.drawLines
        (ls, true, s)
    if !good then .next { s with trans := s.trans.put t { x with asking := false } }
    else
      let y : Trans := { x with done := true, asking := false }
      match { s with trans := s.trans.put t y }.storeTrans t lines with
      | (true, s) => .next (s.launches.foldl (fun s (l, _) => s.transDone l) s)
      | (false, s) => .next (s.failTrans t y)

/-! ### Fetching and checking (R355, R357) -/

/-- Step 1 of R357: every field of the record in range, every other bit zero. -/
def recordOk (x : Launch) : Bool :=
  let f := x.field
  f 0 63 0 % 8 == 0 && decide (1 ≤ f 1 31 0) && decide (1 ≤ f 1 63 32) && decide (1 ≤ f 2 31 0)
    && decide (x.nBlocks ≤ 2 ^ 32) && decide (1 ≤ x.csize ∧ x.csize ≤ 4)
    && f 2 39 35 == 0 && f 2 47 42 == 0 && f 2 63 54 == 0 && f 5 31 0 % 16 == 0 && f 5 63 32 == 0
    && f 6 63 0 % 8 == 0 && f 8 63 0 % 8 == 0 && f 10 63 0 % 8 == 0 && f 12 62 40 == 0 && f 14 63 0 == 0 && f 15 63 0 == 0

/-- LAUNCH_FETCH (R355, R357 step 1): a mapped queue's slot reads its next record. -/
def execLaunchFetch (ctx q : Nat) (s : State) : Out :=
  let x := s.queue ctx q
  if x.slot.isNone || !x.enabled || x.err || x.rd == x.wr then .next s
  else
    let at_ := (x.base.toNat + 128 * (x.rd.toNat % 2 ^ x.log2)) % 2 ^ 64
    match s.readVirtual ctx at_ 128 with
    | none => .next s
    | some bs =>
      let rec_ := (List.range 16).map fun i => BitVec.ofNat 64 (mVal ((bs.drop (8 * i)).take 8))
      let l := Tab.fresh s.launches
      let y : Launch := { ctx := ctx, queue := q, index := x.rd.toNat, addr := BitVec.ofNat 64 at_, record := rec_ }
      let s := ((s.noteVirtual ctx at_ 128).setLaunch l y).setQueue ctx q { x with rd := x.rd + 1 }
      let s := if (s.queue ctx q).drained then s.mapAll else s
      .next (if recordOk y then s else s.finishLaunch l 0x52 0)

/-- The previous record of a launch's queue, if it is known (R357). -/
def State.previous (s : State) (l : Nat) : Option Launch :=
  let x := s.launch l
  (List.find? (fun (k, y) => decide (k < l) && y.ctx == x.ctx && y.queue == x.queue
    && decide (y.index = (x.index + 2 ^ 32 - 1) % 2 ^ 32)) (s.launches.reverse)).map (·.2)

/-- Whether the previous record has finished, and whether it has begun step 4. -/
def State.previousDone (s : State) (l : Nat) : Bool :=
  match s.previous l with
  | none => true
  | some y => y.st == .finished || y.st == .signalling
def State.previousPlacing (s : State) (l : Nat) : Bool :=
  match s.previous l with
  | none => true
  | some y => y.began || y.st == .running || y.st == .signalling || y.st == .finished

/-- What the waits of a launch come to (R357 step 2). -/
inductive Waits
  | met | wait | unreadable
  deriving DecidableEq, Repr

/-- One wait of a launch: words `n` and `n + 1` of its record. -/
def State.waitOn (s : State) (x : Launch) (n : Nat) : Waits :=
  let at_ := x.field n 63 0
  if at_ = 0 then .met
  else match s.readVirtual x.ctx at_ 8 with
    | none => .unreadable
    | some bs => if x.field (n + 1) 63 0 ≤ mVal bs then .met else .wait

/-- The waits of a launch, with ORDER. -/
def State.waits (s : State) (l : Nat) : Waits :=
  let x := s.launch l
  match s.waitOn x 6, s.waitOn x 8 with
  | .unreadable, _ => .unreadable
  | _, .unreadable => .unreadable
  | .met, .met => if x.field 2 40 40 = 1 && !s.previousDone l then .wait else .met
  | _, _ => .wait

/-- The constant bank (R357): byte i of the CONST section, then byte CONSTADDR + i. -/
def State.constBank (s : State) (x : Launch) (k : Kernel) : Option (List Byte) :=
  (List.range k.constlen).mapM fun i =>
    match k.consts[i]? with
    | some b => some b
    | none => ((s.readVirtual x.ctx ((x.field 3 63 0 + i) % 2 ^ 64) 1).bind List.head?).map (·.val)

/-- Whether a byte of a context's memory is there and poisoned. -/
def State.badByte (s : State) (ctx va : Nat) : Bool := match s.readVirtual ctx (va % 2 ^ 64) 1 with | some bs => anyPoison bs | none => false

/-- The offsets of the bank's bytes that were poisoned where they were read from: poison travels with the data (R379). -/
def State.badConsts (s : State) (x : Launch) (k : Kernel) : List Nat :=
  let sect := (constSect fun off n => (s.readVirtual x.ctx ((x.field 0 63 0 + off) % 2 ^ 64) n).map fun bs => bs.map (·.val)).getD 0
  (List.range k.constlen).filter fun i =>
    s.badByte x.ctx (if i < k.consts.length then x.field 0 63 0 + sect + i else x.field 3 63 0 + i)

/-- Step 3 of R357: the object, its constants, and DATAADDR; a status and the offset reported. -/
def State.checkObject (s : State) (x : Launch) : Except LoadError (Kernel × List Byte × List Byte) :=
  let rd : Reader := fun off n => (s.readVirtual x.ctx ((x.field 0 63 0 + off) % 2 ^ 64) n).map fun bs => bs.map (·.val)
  match loadObject rd s.keys s.kernelCounter false with
  | .error e => .error e
  | .ok k =>
    match s.constBank x k with
    | none => .error (ldNoObject, 0)
    | some bank =>
      let d := x.field 13 63 0
      if d % 256 != 0 || (k.hasData && d == 0) || (!k.hasData && d != 0) then .error (0x52, 0)
      else .ok (k, bank, Blake3.hash ((signedBytes rd).getD []))

/-- The reads of a launch's waits, and of its object and constants, counted where their groups are not live (R161). -/
def State.noteWaits (s : State) (x : Launch) : State :=
  [6, 8].foldl (fun s n => if x.field n 63 0 = 0 then s else s.noteVirtual x.ctx (x.field n 63 0) 8) s
def State.noteObject (s : State) (x : Launch) : State :=
  let at_ := x.field 0 63 0
  let len := match s.readVirtual x.ctx (at_ + 12) 4 with | some bs => mVal bs | none => 0
  s.noteVirtual x.ctx at_ (max 16 len)

/-- LAUNCH_WAIT_POLL (R357): the waits of a record are checked again; when they hold its object is read and checked. A
page fault goes to the page service, which resolves it later or declares it unresolvable. A launch whose completion signal
waits for a page tries again (R359). -/
def execLaunchWaitPoll (l : Nat) (s : State) : Out :=
  let x := s.launch l
  let unresolved (s : State) : State :=
    let (q, s) := s.draw
    if q % 2 = 0 then s else s.finishLaunch l ldNoObject 0
  if (s.launches.find? l).isNone then .next s
  else if x.st == .signalling then .next (s.sendSignal l)
  else if x.st != .waiting then .next s
  else match s.waits l with
    | .wait => .next (s.noteWaits x)
    | .unreadable => .next (unresolved (s.noteWaits x))
    | .met =>
      let s := (s.noteWaits x).noteObject x
      match s.checkObject x with
      | .error (c, off) => if c = ldNoObject then .next (unresolved s) else .next (s.finishLaunch l c off)
      | .ok (k, bank, dg) =>
        let s := s.noteVirtual x.ctx (x.field 3 63 0 + k.consts.length) (k.constlen - k.consts.length)
        .next (((s.setLaunch l { x with st := .translating, kernel := k, consts := bank, badConsts := s.badConsts x k, digest := dg,
                                             checkedBy := some (s.keys, s.kernelCounter) }).startTrans l).transDone l)

/-! ### Placing and retiring (R130 to R132, R363) -/

/-- Whether a launch is in its step 4 and has launch clusters to place. -/
def Launch.toPlace (x : Launch) : Bool := x.st == .placing && !x.aborted

/-- BLOCK_PLACE (R130, R131, R357, R363): step 4 begins, and the next launch cluster of a launch, or every one of a COSCHED grid, is placed when there
is room. LAUNCH_NO_FIT is judged while nothing of the grid is placed, and a saved COSCHED grid holds its barrier set (DESIGN CHOICE, log
entry 90). -/
def execBlockPlace (l : Nat) (s : State) : Out :=
  let x := s.launch l
  if !x.toPlace || !s.previousPlacing l || !s.gangOpen x.ctx then .next s
  else
    let s := s.setLaunch l { x with began := true }
    if x.placed = 0 && s.noFit l then .next (s.finishLaunch l 0x50 0)
    else
    let grids := (s.launches.filter fun (k, y) => y.kernel.cosched && s.barriers.any fun (b, _) => b / 64 == k && b / 16 % 4 == 3).length
    let r :=
      if x.kernel.cosched then (if 64 ≤ grids then none else s.placeAll l x.nClusters)
      else s.placeNext l
    match r with
    | none => .next s
    | some s =>
      let y := s.launch l
      .next (if y.nClusters ≤ y.placed then s.setLaunch l { y with st := .running } else s)

/-- The engine operations of a block that have not finished. -/
def State.opsRunning (s : State) (b : Nat) : Bool := s.ops.any fun (_, o) => o.block == b && o.st != .finished

/-- Join every operation of a block, whatever group issued it (R132). -/
def State.joinBlock (s : State) (b : Nat) : State :=
  (s.ops.filter fun (_, o) => o.block == b && !o.joined).foldl (fun s (i, o) =>
    (s.modOp i fun o => { o with wrote := [], joined := true }) |> fun s => o.wrote.foldl (fun s w => s.enterJoined i w) s) s

/-- The accumulator additions of some blocks: their retirement has joined every one (R132, R224). -/
def State.addsOf (s : State) (mine : Nat → Bool) : List Nat := s.ops.flatMap fun (_, o) => if mine o.block then o.adds else []

/-- Whether a release has completed. -/
def State.relDone (s : State) (m : Nat) : Bool := match s.rels.find? m with | some r => r.done | none => true

/-- Free a block: its scratchpad, tiles, queues and channels (R132), and the translations of a withdrawn object that it was the last to
use (R391). -/
def State.freeBlock (s : State) (b : Nat) : State :=
  let core := (s.block b).core
  let s := s.modBlock b fun x => { x with st := .retired, chans := [], queues := [], tiles := [] }
  (s.fitWays core).dropWithdrawn

/-- BLOCK_RETIRE (R132): a block whose groups have retired waits for its engine operations, makes a release at `.dev` over
g and e, and is freed once that has completed. The block of an aborted grid makes no such release (R334) (DEDUCED, log
entry 42). -/
def execBlockRetire (b : Nat) (s : State) : Out :=
  let x := s.block b
  if x.st != .retiring || s.opsRunning b then .next s
  else if (s.launch x.launch).aborted then .next (s.freeBlock b)
  else match x.rel, x.groups with
    | some m, _ => if s.relDone m then .next (s.freeBlock b) else .next s
    | none, [] => .next (s.freeBlock b)
    | none, g :: _ =>
      let s := s.joinBlock b
      let (_, m, s) := s.releaseOn x.core g 3 6 (s.addsOf (· == b))
      .next (s.modBlock b fun x => { x with rel := some m })

/-- The cores on which a launch has stores or blocks, each with a group of the launch: pre-emption may have moved its blocks
from some of them (R173). -/
def State.coresOf (s : State) (l : Nat) : List (Nat × Nat) :=
  let mine (g : Nat) : Bool := (s.block (s.group g).block).launch == l
  let add (acc : List (Nat × Nat)) (c g : Nat) : List (Nat × Nat) := if acc.any fun y => y.1 == c then acc else acc ++ [(c, g)]
  let last := s.blocks.foldl (fun (acc : List (Nat × Nat)) (_, b) =>
    match b.groups with
    | g :: _ => if b.launch == l then add acc b.core g else acc
    | [] => acc) []
  s.cores.foldl (fun acc (c, k) =>
    match k.stores.find? fun st => mine st.grp with
    | some st => add acc c st.grp
    | none => acc) last

/-- Of the stores of an aborted grid that are unpublished, those whose bit in a free number is set are lost (R334; DEDUCED, log entry 42). -/
def State.loseStores (s : State) (l q : Nat) : State :=
  { s with cores := s.cores.mapVals fun _ k =>
      let gone := ((k.stores.filter fun st => st.seq == 0 && (s.block (s.group st.grp).block).launch == l).zipIdx.filter
        fun (_, i) => q.testBit i).map fun (st, _) => st.sid
      { k with stores := k.stores.filter fun st => !gone.contains st.sid,
               view := k.view.filter fun (_, v) => !(v.sid != 0 && gone.contains v.sid) } }

/-- Whether every block of a launch has retired. -/
def State.gridRetired (s : State) (l : Nat) : Bool :=
  let x := s.launch l
  (x.st == .running || (x.st == .placing && x.aborted)) && s.blocks.all fun (_, b) => b.launch != l || b.st == .retired

/-- GRID_COMPLETE (R132, R334, R359): the completion release at `.sys` over g and h, and once it has completed the launch
finishes (DEDUCED, log entry 42). -/
def execGridComplete (l : Nat) (s : State) : Out :=
  let x := s.launch l
  if !s.gridRetired l then .next s
  else match x.rels with
    | none =>
      let s := if x.aborted then (let (q, s) := s.draw; s.loseStores l q) else s
      let (ms, s) := (s.coresOf l).foldl (fun ((ms, s) : List Nat × State) (c, g) =>
        let (_, m, s) := s.releaseOn c g 5 10 (s.addsOf fun b => (s.block b).launch == l)
        (m :: ms, s)) ([], s)
      .next (s.modLaunch l fun x => { x with rels := some ms })
    | some ms => if ms.all s.relDone then .next (s.finishLaunch l (if x.aborted then x.status else 0) 0) else .next s

end Sys2Proof.Machine
end

