-- ==== Sys2Proof/Machine/Array.lean ====
section
/-! DEFINITION. What the matrix array computes: shape records, the format block, operand lines, group sums, and the values
of a drain (R244 to R256, R260, R269). -/

namespace Sys2Proof.Machine

/-- A shape record (R250). -/
structure Shape where
  base : Nat
  extent : Nat
  rows : Nat
  cols : Nat
  stride : Nat
  fmt : Nat
  mbz : Nat
  deriving DecidableEq, Repr

/-- The shape record of 128 bits. -/
def Shape.of (w : BitVec 128) : Shape :=
  let n := w.toNat
  { base := nbits n 31 0, extent := nbits n 63 32, rows := nbits n 79 64, cols := nbits n 95 80, stride := nbits n 119 96,
    fmt := nbits n 121 120, mbz := nbits n 127 122 }

/-- The element formats of the array (R247, R249). -/
inductive AFmt
  | f16 | bf16 | e4m3 | e5m2 | bx8 | bx4
  deriving DecidableEq, Repr

/-- Whether a format is a block format. -/
def AFmt.block : AFmt → Bool
  | .bx8 | .bx4 => true
  | _ => false

/-- Bytes of `k` elements (R250). -/
def AFmt.bytes (f : AFmt) (k : Nat) : Nat :=
  match f with
  | .f16 | .bf16 => 2 * k
  | .bx4 => k / 2
  | _ => k

/-- The format of an ELEM code (R251). -/
def AFmt.ofCode (n : Nat) : Option AFmt :=
  match n with
  | 0x0B => some .f16
  | 0x0C => some .bf16
  | 0x0D => some .e4m3
  | 0x0E => some .e5m2
  | 0x0F => some .bx8
  | 0x10 => some .bx4
  | _ => none

/-- The summation length of a pair of formats, if the array takes the pair (R249). -/
def pairLength (a b : AFmt) : Option Nat :=
  if a.block && b.block then some 32
  else match a, b with
    | .e4m3, .e4m3 | .e4m3, .e5m2 | .e5m2, .e4m3 | .e5m2, .e5m2 | .bf16, .bf16 | .f16, .f16 => some 8
    | _, _ => none

/-- A checked format-block entry (R251). -/
structure FEntry where
  fmt : AFmt
  inB : Bool
  saddr : Nat
  deriving DecidableEq, Repr

/-- Entry `f` of a format block, or none where a field is outside R251. A nonzero SADDR of a format without scales counts as a field
that must be zero (DEDUCED, log entry 67). -/
def formatEntry (ws : List DWord) (f : Nat) (isB : Bool) : Option FEntry :=
  let w0 := ((ws[2 * f]?).getD 0).toNat
  let w1 := ((ws[2 * f + 1]?).getD 0).toNat
  match AFmt.ofCode (nbits w0 4 0) with
  | none => none
  | some m =>
    let lens := if m.block then nbits w0 11 8 == 5 && nbits w0 15 12 == 8 else nbits w0 15 8 == 0 && nbits w0 63 32 == 0
    if w1 != 0 || nbits w0 7 5 != 0 || nbits w0 31 17 != 0 || !lens || (nbits w0 16 16 == 1 && !isB) then none
    else some { fmt := m, inB := nbits w0 16 16 == 1, saddr := nbits w0 63 32 }

/-- Scale blocks of a line of `k` elements (R248). -/
def scaleBlocks (k : Nat) : Nat := (k + 255) / 256

/-- Bytes from BASE that an operand spans (R250). -/
def Shape.span (x : Shape) (lines lineSize : Nat) : Nat := (lines - 1) * x.stride + lineSize

/-- The checks of R252 on one record's own fields. -/
def shapeOk (x : Shape) (lines k : Nat) : Bool :=
  x.mbz == 0 && decide (1 ≤ lines ∧ lines ≤ 128 ∧ 32 ≤ k ∧ k ≤ 4096) && k % 32 == 0

/-- The first failing condition of a list: (fails, faultva). -/
def firstFail (xs : List (Bool × Nat)) : Option Nat := (xs.find? (·.1)).map (·.2)

/-- The bounds of a scale array (R252): in scratchpad all lines, in the B store one slice. -/
def scaleBound (f : FEntry) (lines k scratch : Nat) : List (Bool × Nat) :=
  if !f.fmt.block then []
  else
    let n := 16 * scaleBlocks k
    if f.inB then [(decide (65536 < f.saddr + n), max f.saddr 65536)]
    else [(decide (scratch < f.saddr + lines * n), max f.saddr scratch)]

/-- The checks 3 to 5 of an MMA (R252): code and `faultva`. -/
def mmaFault (a b : Shape) (ws : List DWord) (scratch : Nat) : Option (Nat × Nat) :=
  match formatEntry ws a.fmt false with
  | none => some (fcShapeMismatch, 0)
  | some fa =>
    if !shapeOk a a.rows a.cols || decide (a.stride < fa.fmt.bytes a.cols) then some (fcShapeMismatch, 0)
    else match formatEntry ws b.fmt true with
      | none => some (fcShapeMismatch, 1)
      | some fb =>
        if !shapeOk b b.cols b.rows || b.stride != 65536 || decide (b.stride < fb.fmt.bytes b.rows) then
          some (fcShapeMismatch, 1)
        else if (pairLength fa.fmt fb.fmt).isNone || a.cols != b.rows then some (fcShapeMismatch, 2)
        else
          let k := a.cols
          let la := fa.fmt.bytes k
          let lb := fb.fmt.bytes k
          match firstFail [(a.base % 4 != 0, a.base), (a.stride % 4 != 0, a.stride), (b.base % 4 != 0, b.base),
              (fa.saddr % 16 != 0, fa.saddr), (fb.saddr % 16 != 0, fb.saddr)] with
          | some v => some (fcMisaligned, v)
          | none =>
            (firstFail ([(decide (a.extent < a.span a.rows la), a.base + a.extent),
                (decide (scratch < a.base + a.extent), max a.base scratch),
                (decide (b.extent < b.span b.cols lb), b.base + b.extent),
                (decide (8388608 < b.base + b.extent), max b.base 8388608),
                (decide (65536 < b.base + lb), 65536)]
              ++ scaleBound fa a.rows k scratch ++ scaleBound fb b.cols k scratch)).map fun v => (fcShapeBounds, v)

/-- The checks 3 to 5 of a TLOAD (R252). -/
def tloadFault (a : Shape) (scratch : Nat) : Option (Nat × Nat) :=
  let dim (n : Nat) : Bool := decide (1 ≤ n ∧ n ≤ 128)
  if a.mbz != 0 || a.fmt != 0 || !dim a.rows || !dim a.cols || decide (a.stride < 4 * a.cols) then some (fcShapeMismatch, 0)
  else match firstFail [(a.base % 4 != 0, a.base), (a.stride % 4 != 0, a.stride)] with
    | some v => some (fcMisaligned, v)
    | none =>
      (firstFail [(decide (a.extent < a.span a.rows (4 * a.cols)), a.base + a.extent),
        (decide (scratch < a.base + a.extent), max a.base scratch)]).map fun v => (fcShapeBounds, v)

/-! ### Operand lines -/

/-- One line of an operand: element codes, scale exponents by scale block, offset bytes by sub-block, and the addresses of its
poisoned bytes. -/
structure LineData where
  elems : List Nat
  xs : List Nat
  ofs : List Nat
  poison : List Nat
  deriving DecidableEq, Repr

/-- Runs of bytes that an operation reads: space and address of each 1 or 4 bytes. -/
abbrev Runs := List (CSpace × Nat × Nat)

/-- The words of line `r` of an operand (R250). -/
def lineRuns (x : Shape) (sp : CSpace) (r bytes : Nat) : Runs :=
  (List.range (bytes / 4)).map fun i => (sp, x.base + r * x.stride + 4 * i, 4)

/-- Where the scale records of line `r` start (R248). -/
def scaleAt (f : FEntry) (r k : Nat) : CSpace × Nat :=
  if f.inB then (.bstore, f.saddr + 65536 * r) else (.own, f.saddr + 16 * r * scaleBlocks k)

/-- The scale bytes of line `r` that are read: X of each scale block, then the offset byte of each sub-block. -/
def scaleRuns (f : FEntry) (r k : Nat) : Runs × Runs :=
  if !f.fmt.block then ([], [])
  else
    let (sp, a) := scaleAt f r k
    ((List.range (scaleBlocks k)).map fun i => (sp, a + 16 * i, 1),
     (List.range (k / 32)).map fun i => (sp, a + 16 * (i / 8) + 1 + i % 8, 1))

/-- The key of an operand byte of an array command: its space and address. -/
def operandKey (sp : CSpace) (a : Nat) : Nat := if sp == .bstore then 0x100000000 + a else a

/-- Bytes of an operand: of each that an array command has read before, a value that it read then, or a newer one now (R265). -/
def State.operandBytes (s : State) (o : Nat) (sp : CSpace) (a : Nat) : Nat → Except Stop (List MByte) × State
  | 0 => (.ok [], s)
  | n + 1 =>
    let r : Except Stop (List MByte) × State := match (s.op o).got.find? (operandKey sp a) with
      | some vs =>
        let (q, s) := s.draw
        match vs[q % (vs.length + 1)]? with
        | some b => (.ok [b], s)
        | none => s.engineSource o sp a 1
      | none => s.engineSource o sp a 1
    match r with
    | (.error x, s) => (.error x, s)
    | (.ok b, s) =>
      match s.operandBytes o sp (a + 1) n with
      | (.ok bs, s) => (.ok (b ++ bs), s)
      | (.error x, s) => (.error x, s)

/-- Whether an array command has read some byte of these runs before (R265). -/
def EngOp.hasRead (e : EngOp) (rs : Runs) : Bool :=
  !e.got.isEmpty && rs.any fun (sp, a, n) => (List.range n).any fun i => (e.got.find? (operandKey sp (a + i))).isSome

/-- Read the runs of bytes of an array command. -/
def State.readRuns (s : State) (o : Nat) : Runs → Except Stop (List MByte) × State
  | [] => (.ok [], s)
  | (sp, a, n) :: t =>
    match (if (s.op o).hasRead [(sp, a, n)] then s.operandBytes o sp a n else s.engineSource o sp a n) with
    | (.error x, s) => (.error x, s)
    | (.ok bs, s) =>
      match s.readRuns o t with
      | (.ok r, s) => (.ok (bs ++ r), s)
      | (.error x, s) => (.error x, s)

/-- The addresses of the poisoned bytes among those read from runs. -/
def poisonAt : Runs → List MByte → List Nat
  | [], _ => []
  | (_, a, n) :: t, bs =>
    ((bs.take n).zipIdx.filterMap fun (b, i) => if b.poison then some (a + i) else none) ++ poisonAt t (bs.drop n)

/-- The element codes of a line's bytes (R247, R250). -/
def codesOf (f : AFmt) : List MByte → List Nat
  | [] => []
  | [b] => match f with | .bx4 => [b.val.toNat % 16, b.val.toNat / 16] | .f16 | .bf16 => [] | _ => [b.val.toNat]
  | b :: c :: t =>
    match f with
    | .f16 | .bf16 => (b.val.toNat + 256 * c.val.toNat) :: codesOf f t
    | .bx4 => b.val.toNat % 16 :: b.val.toNat / 16 :: codesOf f (c :: t)
    | _ => b.val.toNat :: codesOf f (c :: t)

/-- Read line `r` of an operand. -/
def State.readLine (s : State) (o : Nat) (x : Shape) (f : FEntry) (sp : CSpace) (r k : Nat) :
    Except Stop LineData × State :=
  let (rx, ro) := scaleRuns f r k
  let rl := lineRuns x sp r (f.fmt.bytes k)
  match s.readRuns o rl with
  | (.error z, s) => (.error z, s)
  | (.ok bs, s) =>
    match s.readRuns o rx with
    | (.error z, s) => (.error z, s)
    | (.ok xs, s) =>
      match s.readRuns o ro with
      | (.error z, s) => (.error z, s)
      | (.ok os, s) =>
        (.ok { elems := codesOf f.fmt bs, xs := xs.map (·.val.toNat), ofs := os.map (·.val.toNat),
               poison := poisonAt rl bs ++ poisonAt rx xs ++ poisonAt ro os }, s)

/-- Read lines of an operand. -/
def State.readLines (s : State) (o : Nat) (x : Shape) (f : FEntry) (sp : CSpace) (k : Nat) :
    List Nat → Except Stop (List LineData) × State
  | [] => (.ok [], s)
  | r :: t =>
    match s.readLine o x f sp r k with
    | (.error z, s) => (.error z, s)
    | (.ok l, s) =>
      match s.readLines o x f sp k t with
      | (.ok ls, s) => (.ok (l :: ls), s)
      | (.error z, s) => (.error z, s)

/-- The runs of a line's bytes, scale records and offsets. -/
def lineParts (x : Shape) (f : FEntry) (sp : CSpace) (r k : Nat) : Runs :=
  lineRuns x sp r (f.fmt.bytes k) ++ (scaleRuns f r k).1 ++ (scaleRuns f r k).2

/-- Read lines of an operand as the elements that use them find them: a line of which bytes have been read before is read for each of its
`uses`, so that a byte may give one element an older and another a newer value; another is read once for all (R265; DEDUCED, log entry
79). -/
def State.readUses (s : State) (o : Nat) (x : Shape) (f : FEntry) (sp : CSpace) (k uses : Nat) :
    List Nat → Except Stop (List (List LineData)) × State
  | [] => (.ok [], s)
  | r :: t =>
    match s.readLines o x f sp k (List.replicate (if (s.op o).hasRead (lineParts x f sp r k) then max 1 uses else 1) r) with
    | (.error z, s) => (.error z, s)
    | (.ok l, s) =>
      match s.readUses o x f sp k uses t with
      | (.ok ls, s) => (.ok (l :: ls), s)
      | (.error z, s) => (.error z, s)

/-- A line as its use `u` finds it: as read for that use, or as read for all. -/
def useOf (ls : List LineData) (u : Nat) : LineData := (ls[u]?).getD ((ls.head?).getD ⟨[], [], [], []⟩)

/-! ### Arithmetic (R253 to R256) -/

/-- A finite term: (−1)^neg * m * 2^e. -/
structure Term where
  neg : Bool
  m : Nat
  e : Int
  deriving DecidableEq, Repr

/-- The format of R78 behind an array format. -/
def AFmt.fmt : AFmt → Fmt
  | .f16 => fmtF16
  | .bf16 => fmtBf16
  | .e4m3 => fmtE4m3
  | _ => fmtE5m2

/-- Element `k` of a line (R247): its value, or none for a NaN or an infinity. -/
def LineData.term (l : LineData) (f : AFmt) (k : Nat) : Option Term :=
  let c := (l.elems[k]?).getD 0
  if f.block then
    let (neg, sel, m, u) : Nat × Nat × Nat × Int :=
      if f == .bx8 then (c / 128, c / 64 % 2, c % 64, 5) else (c / 8, c / 4 % 2, c % 4, 1)
    let ob := (l.ofs[k / 32]?).getD 0
    let o := if sel = 1 then ob / 16 else ob % 16
    let x := (l.xs[k / 256]?).getD 0
    some { neg := neg == 1, m := m, e := (x : Int) - 127 - o - u }
  else match f.fmt.fv c with
    | .fin s m e => some { neg := s, m := m, e := e }
    | _ => none

/-- Whether a line is flagged by the detector (R256): a NaN, an infinity, or a NaN block. -/
def LineData.flagged (l : LineData) (f : AFmt) (k : Nat) : Bool :=
  l.xs.contains 0xFF || (List.range k).any fun i => (l.term f i).isNone

/-- The product of two elements; one that is no number counts as zero, since its row's NaN bit is set. -/
def product (a b : Option Term) : Term :=
  match a, b with
  | some x, some y => { neg := x.neg != y.neg, m := x.m * y.m, e := x.e + y.e }
  | _, _ => { neg := false, m := 0, e := 0 }

/-- The exact sum of terms (R253), with the sign of a zero by R255. -/
def exactSum (ts : List Term) : FV :=
  let e := ts.foldl (fun m t => if t.e < m then t.e else m) ((ts.head?.map (·.e)).getD 0)
  let n : Int := ts.foldl (fun n t =>
    let v : Int := (t.m * 2 ^ (t.e - e).toNat : Nat)
    if t.neg then n - v else n + v) 0
  if n = 0 then .fin (ts.all fun t => t.neg && t.m == 0) 0 e else .fin (decide (n < 0)) n.natAbs e

/-- Element (i, j) of an MMA's result from its previous value (R253): group sums in ascending k, each rounded, then each
accumulation rounded. -/
def mmaElem (fa fb : AFmt) (a b : LineData) (k len : Nat) (acc : Option Nat) : Nat :=
  ((List.range (k / len)).foldl (fun (acc : Option Nat) g =>
    let ts := (List.range len).map fun i => product (a.term fa (len * g + i)) (b.term fb (len * g + i))
    let y := fmtF32.rnd .rn false (exactSum ts)
    match acc with
    | none => some y
    | some x => some (fmtF32.rnd .rn false (faddV .rn (fmtF32.fv x) (fmtF32.fv y)))) acc).getD 0

/-- Bits of the rows for which a function is true. -/
def rowMask (n : Nat) (f : Nat → Bool) : BitVec 128 :=
  (List.range n).foldl (fun m i => if f i then m ||| (1#128 <<< i) else m) 0

/-- A tile element. -/
def Tile.elem (t : Tile) (i j : Nat) : Nat := (Tab.get 0 t.vals (128 * i + j)).toNat

/-- Write tile elements from a function of row and column. -/
def Tile.fill (t : Tile) (rows cols : List Nat) (f : Nat → Nat → Nat) : Tile :=
  { t with vals := rows.foldl (fun v i => cols.foldl (fun v j => v.put (128 * i + j) (BitVec.ofNat 32 (f i j))) v) t.vals }

/-- An MMA on a tile of A's rows and B's columns, each as its uses find it (R253, R256, R269). Poison bits are only ever set (DEDUCED, log
entry 87). -/
def Tile.mma (t : Tile) (fa fb : AFmt) (as bs : List (List LineData)) (k len : Nat) (acc : Bool) : Tile :=
  let m := as.length
  let n := bs.length
  let la (i j : Nat) : LineData := useOf ((as[i]?).getD []) j
  let lb (i j : Nat) : LineData := useOf ((bs[j]?).getD []) i
  let all := rowMask m fun _ => true
  let flagB := bs.any fun ls => ls.any fun l => l.flagged fb k
  let poiB := bs.any fun ls => ls.any fun l => !l.poison.isEmpty
  let nan0 := if !acc && n == 128 then t.nan &&& ~~~all else t.nan
  { t.fill (List.range m) (List.range n) fun i j =>
      mmaElem fa fb (la i j) (lb i j) k len (if acc then some (t.elem i j) else none) with
    nan := nan0 ||| rowMask m fun i => flagB || ((as[i]?).getD []).any fun l => l.flagged fa k
    poison := t.poison ||| rowMask m fun i => poiB || ((as[i]?).getD []).any fun l => !l.poison.isEmpty }

/-- The values of the rows whose NaN bit is set are not architectural (R256): they are read from a free value (log entry 47). -/
def Tile.scramble (t : Tile) (q : Nat) : Tile :=
  let rows := (List.range 128).filter fun i => t.nan.getLsbD i
  if rows.isEmpty then t
  else t.fill rows (List.range 128) fun i j => q / 2 ^ (32 * (128 * i + j)) % 2 ^ 32

/-- TZERO (R260). -/
def Tile.zero (t : Tile) : Tile := { t with vals := [], nan := 0, poison := 0 }

/-- TLOAD of rows of FP32 values (R256, R260). -/
def Tile.load (t : Tile) (rows : List (List Nat)) (cols : Nat) (poison : Nat → Bool) : Tile :=
  let m := rows.length
  let v (i j : Nat) : Nat := (((rows[i]?).getD [])[j]?).getD 0
  let all := rowMask m fun _ => true
  { t.fill (List.range m) (List.range cols) v with
    nan := (t.nan &&& ~~~all) ||| rowMask m fun i =>
      (List.range cols).any fun j => fmtF32.isNan (v i j) || fmtF32.isInf (v i j)
    poison := (t.poison &&& ~~~all) ||| rowMask m poison }

/-- The value that a drain gives element (i, j) (R260). -/
def Tile.drained (t : Tile) (f : TdrainOp) (i j : Nat) : Nat :=
  let k := tyFmt f.ty
  if t.nan.getLsbD i then k.qnan
  else if f.ty == .f32 then t.elem i j
  else k.rnd f.rm f.sat (fmtF32.fv (t.elem i j))

/-- The tile after a drain (R260): the NaN flag, and with `.clr` the drained rows at +0. -/
def Tile.afterDrain (t : Tile) (f : TdrainOp) : Tile :=
  let r0 := f.row0.toNat
  let n := f.nrows1.toNat + 1
  let rows := rowMask 128 fun i => decide (r0 ≤ i ∧ i < r0 + n)
  let t := { t with flag := t.flag || t.nan &&& rows != 0 }
  if f.clr then
    { t with vals := t.vals.filter fun (k, _) => !decide (r0 ≤ k / 128 ∧ k / 128 < r0 + n),
             nan := t.nan &&& ~~~rows, poison := t.poison &&& ~~~rows }
  else t

end Sys2Proof.Machine
end

