-- ==== Sys2Proof/Machine/Matrix.lean ====
section
/-! DEFINITION. Matrix instructions, opcodes 0xC0 to 0xC7, and the events of the matrix array (R252, R257 to R269). -/

namespace Sys2Proof.Machine

/-- A tile of a block (R244). -/
def State.tile (s : State) (b t : Nat) : Tile := Tab.get {} (s.block b).tiles t
def State.modTile (s : State) (b t : Nat) (f : Tile → Tile) : State :=
  s.modBlock b fun k => { k with tiles := k.tiles.put t (f (Tab.get {} k.tiles t)) }

/-- Whether an array command would hold the executing group: 16 commands are queued, or its counter is full (R201,
R264). -/
def State.arrayFull (s : State) : Bool :=
  decide (16 ≤ (s.core s.grp.core).arrayQ.length) || s.counterFull true

/-- Queue an array command on the executing group's core and go on (R259, R264). -/
def State.issueArray (s : State) (n : Nat) (kind : OpKind) : State :=
  let (o, s) := s.newOp none kind true .queued
  (s.modCore s.grp.core fun k => { k with arrayQ := k.arrayQ ++ [o] }).advance n

/-- A scalar pair as a shape record (R250). -/
def Regs.shape (r : Regs) (i : Idx) : BitVec 128 := r.scal (i.toNat + 1) ++ r.scal i.toNat

/-- MMA (R252, R259): the format block is read as loads of the group, and an MMA whose format block is poisoned is not queued (R185;
DEDUCED, log entry 79). A full array queue or counter holds it before its checks, as it
holds the other matrix commands (DESIGN CHOICE, log entry 56). -/
def execMma (f : MmaOp) (s : State) : Out :=
  s.copyClass 16 fun act s =>
    let r := s.th.regs
    let fb := (r.scal f.c.toNat).toNat
    let scratch := s.scratchOf s.grp.block
    if s.arrayFull then s.waitHere .hold
    else if fb % 64 != 0 then s.raise 16 act fcMisaligned (BitVec.ofNat 64 fb)
    else if scratch < fb + 64 then s.raise 16 act fcScratchBounds (BitVec.ofNat 64 fb)
    else match s.recWords true fb 8 0 [] with
      | (.fault c, s) => s.raise 16 act c (BitVec.ofNat 64 fb)
      | (.waits w, s) => s.waitHere (.watermark w)
      | (.poisoned, s) => (s.advance 16).kill s.th.live
      | (.words ws, s) =>
        match mmaFault (Shape.of (r.shape f.a)) (Shape.of (r.shape f.b)) ws scratch with
        | some (c, va) => s.raise 16 act c (BitVec.ofNat 64 va)
        | none => s.issueArray 16 (.mma f.d.toNat (r.shape f.a) (r.shape f.b) ws f.acc)

/-- TZERO (R260). -/
def execTzero (f : TileOp) (s : State) : Out :=
  s.copyClass (ilen f.ext) fun _ s =>
    if s.arrayFull then s.waitHere .hold else s.issueArray (ilen f.ext) (.tzero f.d.toNat)

/-- TLOAD (R252, R260). -/
def execTload (f : TileOp) (s : State) : Out :=
  s.copyClass (ilen f.ext) fun act s =>
    let a := s.th.regs.shape f.a
    if s.arrayFull then s.waitHere .hold
    else match tloadFault (Shape.of a) (s.scratchOf s.grp.block) with
      | some (c, va) => s.raise (ilen f.ext) act c (BitVec.ofNat 64 va)
      | none => s.issueArray (ilen f.ext) (.tload f.d.toNat a)

/-- The elements that a drain pushes. -/
def drainCount (f : TdrainOp) : Nat := (f.nrows1.toNat + 1) * (f.ncols1.toNat + 1)

/-- TDRAIN (R257, R260): its elements take their places in the queue at issue. -/
def execTdrain (f : TdrainOp) (s : State) : Out :=
  s.copyClass 16 fun act s =>
    let b := s.grp.block
    let r := s.rqueue b f.q.toNat
    let w := f.ty.width / 8
    let e := drainCount f
    if s.arrayFull then s.waitHere .hold
    else if 65536 < r.ib - r.cb + e * w then s.raise 16 act fcQueueOverflow 0
    else
      let new := (List.range e).map fun i => (r.ie + i, ({ width := w, val := 0, poison := false, written := false } : QElem))
      let s := s.modQueue b f.q.toNat fun r => { r with elems := r.elems ++ new, ie := r.ie + e, ib := r.ib + e * w }
      s.issueArray 16 (.tdrain f.q.toNat r.ie (e * w) f)

/-- Bytes of elements numbered from `first` on, `n` of them. -/
def RQueue.bytesOf (r : RQueue) (first n : Nat) : Nat :=
  r.elems.foldl (fun t (i, e) => if first ≤ i ∧ i < first + n then t + e.width else t) 0

/-- Claim the next `n` elements of a queue (R257). -/
def RQueue.claim (r : RQueue) (n : Nat) : RQueue := { r with ce := r.ce + n, cb := r.cb + r.bytesOf r.ce n }

/-- Whether `n` claimed elements have been written by their drains. -/
def RQueue.written (r : RQueue) (first n : Nat) : Bool :=
  (List.range n).all fun i => match r.elems.find? (first + i) with | some e => e.written | none => true

/-- A group takes the elements that its QPOP has claimed (R261): poisoned ones kill their lanes. -/
def State.takePop (s : State) (q first : Nat) (lanes : Mask) (d n : Nat) : State :=
  let x := s.grp
  let r := s.rqueue x.block q
  let el (l : Nat) : QElem := (r.elems.find? (first + l)).getD { width := 4, val := 0, poison := false, written := true }
  let bad := maskOf fun l => lanes.getLsbD l && (el l).poison
  let s := s.modQueue x.block q fun r =>
    { r with elems := r.elems.filter fun (i, _) => !decide (first ≤ i ∧ i < first + x.width) }
  let s := s.setGrp { s.grp with wait := .none }
  let s := (s.setRegs (s.th.regs.putVec d (lanes &&& ~~~bad) fun l => (el l).val)).advance n
  if bad = 0 then s else s.kill bad

/-- QPOP (R257, R261): its commit point falls after its claim. -/
def execQpop (f : QpopOp) (s : State) : Out :=
  s.perform f.guard (ilen f.ext) fun act s =>
    s.orUnsupported act fun s =>
      let s := s.flush s.cur
      let x := s.grp
      let q := f.q.toNat
      let r := s.rqueue x.block q
      if r.ie - r.ce < x.width then s.raise (ilen f.ext) act fcQueueUnderflow 0
      else
        let s := s.modQueue x.block q fun r => r.claim x.width
        if r.written r.ce x.width then s.takePop q r.ce act f.d.toNat (ilen f.ext)
        else s.waitHere (.qpop q r.ce act f.d (ilen f.ext))

/-- QPOP_ELEMENTS_READY (R261): a waiting QPOP receives its elements once they are written. -/
def execQpopElementsReady (g : Nat) (s : State) : Out :=
  let s' := { s with cur := g }
  match (s.group g).wait with
  | .qpop q first lanes d n =>
    if (s.rqueue (s.group g).block q).written first (s.group g).width then .next (s'.takePop q first lanes d.toNat n)
    else .next s
  | _ => .next s

/-- The elements of a pop as elements of an engine operation, packed from `dst` on, which may be a fabric address (R262). -/
def RQueue.packed (r : RQueue) (first n dst : Nat) (fab : Bool) : List Elem :=
  ((List.range n).foldl (fun (acc : List Elem × Nat) i =>
    let w := match r.elems.find? (first + i) with | some e => e.width | none => 4
    (acc.1 ++ [{ src := first + i, fill := none, stage := 0, dst := if fab then fabStep dst acc.2 else (dst + acc.2) % 2 ^ 64 }],
      acc.2 + w)) ([], 0)).1

/-- Issue a QSTORE or QSEND whose checks have passed: it claims `n` elements and starts at once (R262). -/
def State.issuePop (s : State) (len q n dst : Nat) (kind : OpKind) : State :=
  let b := s.grp.block
  let r := s.rqueue b q
  let es := r.packed r.ce n dst (match kind with | .qsend .. => true | _ => false)
  let (o, s) := s.newOp none kind true (if n = 0 then .finished else .started)
  ((s.modOp o fun e => { e with todo := es, cover := [(dst, dst + r.bytesOf r.ce n)] }).modQueue b q fun r => r.claim n).advance len

/-- QSTORE (R262). `faultva` of MISALIGNED and SCRATCH_BOUNDS is the address in A (DESIGN CHOICE, log entry 91); that of PAGE_NOT_PRESENT
is as R153 says. -/
def execQstore (f : QstoreOp) (s : State) : Out :=
  s.copyClass (ilen f.ext) fun act s =>
    let b := s.grp.block
    let q := f.q.toNat
    let r := s.rqueue b q
    let n := s.env.uval f.cnt 32
    let at_ := s.th.regs.scal f.a.toNat
    if s.counterFull true then s.waitHere .hold
    else if r.ie - r.ce < n then s.raise (ilen f.ext) act fcQueueUnderflow 0
    else if at_.toNat % 4 != 0 then s.raise (ilen f.ext) act fcMisaligned at_
    else if f.inScr && decide (s.scratchOf b < at_.toNat + r.bytesOf r.ce n) then
      s.raise (ilen f.ext) act fcScratchBounds at_
    else if !f.inScr && decide (2 ^ 56 ≤ at_.toNat) then s.raise (ilen f.ext) act fcPageNotPresent at_
    else s.issuePop (ilen f.ext) q n at_.toNat (.qstore q r.ce n f.inScr at_)

/-- QSEND (R262). -/
def execQsend (f : QsendOp) (s : State) : Out :=
  s.copyClass (ilen f.ext) fun act s =>
    let q := f.q.toNat
    let r := s.rqueue s.grp.block q
    let n := s.env.uval f.cnt 32
    let fab := s.th.regs.scal f.d.toNat
    if s.counterFull true then s.waitHere .hold
    else if r.ie - r.ce < n then s.raise (ilen f.ext) act fcQueueUnderflow 0
    else s.issuePop (ilen f.ext) q n fab.toNat (.qsend q r.ce n fab)

/-- The tile that a command acts on. -/
def OpKind.tile : OpKind → Option Nat
  | .mma t .. | .tzero t | .tload t _ => some t
  | .tdrain _ _ _ f => some f.d.toNat
  | _ => none

/-- Whether a command on the tile has been issued and has not completed. -/
def State.tileBusy (s : State) (b t : Nat) : Bool :=
  s.ops.any fun (_, o) => o.block == b && o.kind.tile == some t && o.st != .finished

/-- The QSTAT word (R263): with TILES = 0 the tile bits read 0. -/
def State.qstatWord (s : State) (b q t : Nat) : DWord :=
  let r := s.rqueue b q
  let un := r.elems.filter fun (i, _) => decide (r.ce ≤ i)
  let bytes (w : Bool) : Nat := un.foldl (fun n (_, e) => if e.written == w then n + e.width else n) 0
  let have_ := decide (t < (s.launch (s.block b).launch).kernel.tiles)
  let bit (c : Bool) (k : Nat) : Nat := if have_ && c then 2 ^ k else 0
  BitVec.ofNat 64 (bit ((s.tile b t).poison != 0) 58 + bit (s.tileBusy b t) 57 + bit (s.tile b t).flag 56
    + bytes false * 2 ^ 32 + bytes true)

/-- QSTAT (R263): it executes in a region. -/
def execQstat (f : QstatOp) (s : State) : Out :=
  s.perform Guard.always (ilen f.ext) fun _ s =>
    let s := s.flush s.cur
    let b := s.grp.block
    let t := f.tile.toNat
    let v := s.qstatWord b f.q.toNat t
    let s := if f.clr && decide (t < (s.launch (s.block b).launch).kernel.tiles) then
        s.modTile b t fun k => { k with flag := false }
      else s
    (s.setRegs (s.th.regs.setScal f.d.toNat v)).advance (ilen f.ext)

/-! ### The array (R264) -/

/-- The bytes that an array command reads. -/
def opRuns (k : OpKind) : Runs :=
  match k with
  | .mma _ a b ws _ =>
    let x := Shape.of a
    let y := Shape.of b
    match formatEntry ws x.fmt false, formatEntry ws y.fmt true with
    | some fa, some fb =>
      ((List.range x.rows).flatMap fun i =>
        lineRuns x .own i (fa.fmt.bytes x.cols) ++ (scaleRuns fa i x.cols).1 ++ (scaleRuns fa i x.cols).2)
      ++ (List.range y.cols).flatMap fun j =>
        lineRuns y .bstore j (fb.fmt.bytes x.cols) ++ (scaleRuns fb j x.cols).1 ++ (scaleRuns fb j x.cols).2
    | _, _ => []
  | .tload _ a => (List.range (Shape.of a).rows).flatMap fun i => lineRuns (Shape.of a) .own i (4 * (Shape.of a).cols)
  | _ => []

/-- Write an element of a queue when its drain reaches it: once, so that poison that it has met in the queue since stays (R260, R377). -/
def RQueue.write (r : RQueue) (i : Nat) (val : Word) (poison : Bool) : RQueue :=
  match r.elems.find? i with
  | none => r
  | some e => if e.written then r else { r with elems := r.elems.put i { e with val := val, poison := poison, written := true } }

/-- A drain pushes element `k` of those it drains (R260): its value and the poison bit of its row. -/
def RQueue.push (r : RQueue) (t : Tile) (f : TdrainOp) (first k : Nat) : RQueue :=
  let nc := f.ncols1.toNat + 1
  let i := f.row0.toNat + k / nc
  r.write (first + k) (BitVec.ofNat 32 (t.drained f i (k % nc))) (t.poison.getLsbD i)

/-- A started drain pushes its next element (R257, R260): pops and QSTAT find it written while the drain goes on. -/
def State.pushNext (s : State) (o : Nat) : State :=
  let e := s.op o
  match (if e.st == .started then e.kind else .tzero 0) with
  | .tdrain q first _ f =>
    let left (k : Nat) : Bool := match (s.rqueue e.block q).elems.find? (first + k) with | some x => !x.written | none => false
    match (List.range (drainCount f)).find? left with
    | some k => s.modQueue e.block q fun r => r.push (s.tile e.block f.d.toNat) f first k
    | none => s
  | _ => s

/-- A started array command reads one of its operand bytes, which `q` names, before it completes: it may be read at any
moments between start and completion (R265), and one above a watermark waits (R212). A drain pushes its next element (R260). -/
def State.readOperand (s : State) (o q : Nat) : State :=
  let s := s.pushNext o
  let e := s.op o
  let rs := opRuns e.kind
  match (if e.st == .started then rs[q % max 1 rs.length]? else none) with
  | none => s
  | some (sp, a, n) =>
    let i := a + q / max 1 rs.length % max 1 n
    match s.engineSource o sp i 1 with
    | (.ok [b], s) => s.modOp o fun e => { e with got := e.got.put (operandKey sp i) (Tab.get [] e.got (operandKey sp i) ++ [b]) }
    | _ => s

/-- Whether bytes an operation reads wait for a watermark (R212). -/
def State.runsBlocked (s : State) (b : Nat) (rs : Runs) : Bool :=
  rs.any fun (sp, a, n) =>
    match (s.engineLoc b sp a n .load).1 with
    | .ok (va, p) => !(s.blockers b va p.pa n none).isEmpty
    | .error _ => false

/-- Whether a head command may start (R264). -/
def State.headReady (s : State) (o : Nat) : Bool :=
  let e := s.op o
  let tileFree := match e.kind with
    | .mma .. => true
    | k => s.ops.all fun (i, x) =>
        !(decide (i < o) && x.block == e.block && x.kind.tile == k.tile && x.st != .finished)
  let room := match e.kind with
    | .tdrain q first bytes _ => decide ((s.rqueue e.block q).bytesOf 0 first + bytes ≤ 65536)
    | _ => true
  tileFree && room && !s.runsBlocked e.block (opRuns e.kind)

/-- The next command of a cluster's array: round-robin after the core whose command started last. -/
def State.nextArray (s : State) (cl : Nat) : Option (Nat × Nat) :=
  (List.range 4).findSome? fun i =>
    let pos := ((s.cluster cl).last + 1 + i) % 4
    match (s.core (4 * cl + pos)).arrayQ with
    | o :: _ => if s.headReady o then some (pos, o) else none
    | [] => none

/-- ARRAY_COMMAND_START (R264). -/
def execArrayCommandStart (cl : Nat) (s : State) : Out :=
  match s.nextArray cl with
  | none => .next s
  | some (pos, o) =>
    let s := s.modCore (4 * cl + pos) fun k => { k with arrayQ := k.arrayQ.drop 1 }
    .next ((s.modOp o fun e => { e with st := .started }).modCluster cl fun k => { k with last := pos })

/-- The commands of a cluster that may complete next: the oldest started one of each core. -/
def State.arrayRunning (s : State) (cl : Nat) : List Nat :=
  (List.range 4).filterMap fun pos =>
    (List.find? (fun (_, (e : EngOp)) => e.core == 4 * cl + pos && e.kind.tile.isSome && e.st == .started) s.ops).map (·.1)

/-- After a command has written a tile, rows with their NaN bit set hold free values (R256). -/
def State.scramble (s : State) (b t : Nat) : State :=
  if (s.tile b t).nan = 0 then s
  else
    let (q, s) := s.draw
    s.modTile b t fun k => k.scramble q

/-- Perform a started array command, which reads what is left of its operands: the state after it, or none while its reads wait for
a watermark (R259, R260, R265, R269). -/
def State.arrayPerform (s : State) (o : Nat) : Option State :=
  let e := s.op o
  -- which of several poisoned bytes `faultva` names is not fixed (R237)
  let poisoned (s : State) (ls : List LineData) : State :=
    let bad := ls.flatMap (·.poison)
    let (q, s) := if 1 < bad.length then s.draw else (0, s)
    match bad[q % max 1 bad.length]? with
    | some a => s.failOp o fcUncorrectable (BitVec.ofNat 64 a)
    | none => s
  match e.kind with
  | .tzero t => some (s.modTile e.block t Tile.zero)
  | .tdrain q first _ f =>
    -- those elements that it has not pushed before (`pushNext`)
    let t := s.tile e.block f.d.toNat
    let s := s.modQueue e.block q fun r => (List.range (drainCount f)).foldl (fun r k => r.push t f first k) r
    some (s.modTile e.block f.d.toNat fun t => t.afterDrain f)
  | .tload t a =>
    let x := Shape.of a
    match s.readLines o x { fmt := .f16, inB := false, saddr := 0 } .own (2 * x.cols) (List.range x.rows) with
    | (.error _, _) => none
    | (.ok ls, s) =>
      -- each line was read as 16-bit halves of its FP32 values
      let pairs (l : LineData) : List Nat := (List.range x.cols).map fun j =>
        (l.elems[2 * j]?).getD 0 + 65536 * (l.elems[2 * j + 1]?).getD 0
      let s := s.modTile e.block t fun k =>
        k.load (ls.map pairs) x.cols fun i => (ls[i]?).any fun l => !l.poison.isEmpty
      some (poisoned (s.scramble e.block t) ls)
  | .mma t a b ws acc =>
    let x := Shape.of a
    let y := Shape.of b
    match formatEntry ws x.fmt false, formatEntry ws y.fmt true with
    | some fa, some fb =>
      match s.readUses o x fa .own x.cols y.cols (List.range x.rows) with
      | (.error _, _) => none
      | (.ok la, s) =>
        match s.readUses o y fb .bstore x.cols x.rows (List.range y.cols) with
        | (.error _, _) => none
        | (.ok lb, s) =>
          let len := (pairLength fa.fmt fb.fmt).getD 32
          let s := s.modTile e.block t fun k => k.mma fa.fmt fb.fmt la lb x.cols len acc
          some (poisoned (s.scramble e.block t) (la ++ lb).flatten)
    | _, _ => some s
  | _ => some s

/-- ARRAY_COMMAND_COMPLETE (R259, R264): one of the commands that may complete next does. -/
def execArrayCommandComplete (cl : Nat) (s : State) : Out :=
  let run := s.arrayRunning cl
  let (q, s') := if 1 < run.length then s.draw else (0, s)
  match run[q % max run.length 1]? with
  | none => .next s
  | some o =>
    match s'.arrayPerform o with
    | some s => .next ((s.modOp o fun e => { e with got := [] }).finishOp o)
    | none => .next s

end Sys2Proof.Machine
end

