-- ==== Sys2Proof/Machine/Preempt.lean ====
section
/-! DEFINITION. Page service, stalls and pre-emption: requests, saving a unit, discarding it, and resuming it (R147, R148,
R316, R325, R331, R332, R339 to R343, R364). -/

namespace Sys2Proof.Machine

/-! ### Page service (R331, R332) -/

/-- A group leaves page service: its core no longer stalls for it. -/
def State.endService (s : State) (g : Nat) : State :=
  s.modCore (s.group g).core fun k => { k with stall := k.stall.filter (· != g) }

/-- The fault that a group waits for page service with. -/
def Group.serviced (x : Group) : Option FaultInfo := match x.wait with | .page f => some f | _ => none

/-- PAGE_SERVICE_RESOLVE (R325, R331): system software writes a page-table entry; the group's faulting instruction is
performed again, and its engine operations that wait for a page go on. -/
def execPageServiceResolve (g pteAddr : Nat) (pte : BitVec 64) (s : State) : Out :=
  let s := s.agentWrite pteAddr (leMBytes 8 pte.toNat)
  let s := match (s.group g).serviced with
    | some _ => (s.endService g).modGroup g fun x => { x with wait := .none }
    | none => s
  .next { s with ops := s.ops.mapVals fun _ o => if o.grp == g then { o with paging := none } else o }

/-- PAGE_SERVICE_UNRESOLVABLE (R331): the fault goes on to the handler table; those of engine operations become pending
(R237). -/
def execPageServiceUnresolvable (g : Nat) (s : State) : Out :=
  let s := (s.ops.filter fun (_, o) => o.grp == g).foldl (fun s (i, o) =>
    match o.paging with
    | some va => (s.failOp i fcPageNotPresent va).modOp i fun o => { o with paging := none }
    | none => s) s
  match (s.group g).serviced with
  | none => .next s
  | some f =>
    -- a group of a discarded unit has gone back to its region's START, and meets the fault there again (R342)
    if s.units.any fun (_, u) => u.discarded && u.blocks.contains (s.group g).block then
      .next ((s.endService g).modGroup g fun x => { x with wait := .none })
    else .next ((s.endService g).deliver g f)

/-! ### Units (R246, R332) -/

/-- The hardware clusters that move together with a cluster: all those of a COSCHED grid. -/
def State.unitClusters (s : State) (cl : Nat) : List Nat :=
  match s.blocksOnCluster cl with
  | [] => [cl]
  | b :: _ =>
    let l := (s.block b).launch
    if (s.launch l).kernel.cosched then
      (s.blocks.foldl (fun (acc : List Nat) (_, x) =>
        if x.launch == l && x.st == .resident && !acc.contains (clusterOf x.core) then acc ++ [clusterOf x.core] else acc) [])
    else [cl]

/-- The resident blocks on some hardware clusters. -/
def State.residentOn (s : State) (cls : List Nat) : List Nat :=
  (s.blocks.filter fun (_, x) => x.st == .resident && cls.contains (clusterOf x.core)).map (·.1)

/-- Whether a group of some blocks holds NP (R147). -/
def State.npHeld (s : State) (bs : List Nat) : Bool := s.groups.any fun (_, x) => x.np && !x.retired && bs.contains x.block

/-- The groups of some blocks that have not retired. -/
def State.groupsIn (s : State) (bs : List Nat) : List (Nat × Group) :=
  s.groups.filter fun (_, x) => bs.contains x.block && !x.retired

/-- The checkpoint of the idempotent region that a group is inside and that it entered in its current frame (R342). -/
def State.idemIn (s : State) (x : Group) : Option Idem :=
  match (s.kernelOf x).idemAt x.th.word x.th.depth x.idem with
  | e :: _ => if e.th.depth = x.th.depth then some e else none
  | [] => none

/-- Whether a group may be discarded (R342): inside an idempotent region entered in its current frame, with no unfinished
engine operation issued before its START. A group that runs a fault handler inside its region counts as outside it (DESIGN CHOICE, log
entry 100). -/
def State.idemGroup (s : State) (g : Nat) (x : Group) : Bool :=
  match s.idemIn x with
  | some e => x.hnd.isNone && !(s.ops.any fun (i, o) => o.grp == g && decide (i < e.nextOp) && o.st != .finished)
  | none => false

/-- Whether the blocks of a unit may be discarded instead of saved (R342). -/
def State.discardable (s : State) (bs : List Nat) : Bool := (s.groupsIn bs).all fun (g, x) => s.idemGroup g x

/-- Whether a group holds an open region that has to close before it is saved (R316). After a mismatch the region is saved with the
group (R384). -/
def Group.openHere (x : Group) : Bool := x.region.depth != 0 && !x.keep

/-- What a group still has to take before it is saved (R316, R339): its PREEMPT abort, up to where its region has closed, or
NOPREEMPT_OVERRUN. -/
def Group.unsettled (x : Group) : Bool :=
  (x.preempt && x.openHere) || (x.overrun && x.hnd.isNone && (x.wait == .none || x.wait == .hold))

/-- A wait inside a region that ends for the instruction to be performed again, so that the group reaches its boundary. -/
def Wait.again : Wait → Bool
  | .waitc _ | .watermark _ | .hold | .page _ => true
  | _ => false

/-- Request a pre-emption of the unit of a cluster (R340). While a group of the unit holds NP the request waits, and nothing comes
of it (R147). Once it is taken, whether the unit is to be discarded is judged (R342); if it is not, open regions are to take a PREEMPT
abort (R316), and a page fault's stall ends for them (R339). -/
def State.request (s : State) (cl : Nat) (swap : Bool) : State :=
  let cls := s.unitClusters cl
  let bs := s.residentOn cls
  if bs.isEmpty then s
  else if s.npHeld bs then
    { s with clusters := cls.foldl (fun t c =>
        let k : Cluster := Tab.get {} t c
        t.put c { k with preempt := true, swap := k.swap || swap }) s.clusters }
  else
    let k0 := s.cluster cl
    let discard := if k0.taken then k0.discard else s.discardable bs
    let flag (x : Group) : Bool := bs.contains x.block && !x.retired && x.openHere && !discard
    { s with
      clusters := cls.foldl (fun t c =>
        let k : Cluster := Tab.get {} t c
        t.put c { k with preempt := true, swap := k.swap || swap, poolWait := false, taken := true, discard := discard }) s.clusters,
      cores := s.cores.mapVals fun _ k => { k with stall := k.stall.filter fun g => !flag (s.group g) },
      groups := s.groups.mapVals fun _ x =>
        if flag x then { x with preempt := true, wait := if x.wait.again then .none else x.wait } else x }

/-- PREEMPTION_REQUEST (R340). -/
def execPreemptionRequest (cl : Nat) (s : State) : Out := .next (s.request cl false)

/-- FAULT_STALL_TIMEOUT (R332): the unit is to be swapped out. While a group of its cluster holds NP the request and the stall
go on (R147). -/
def execFaultStallTimeout (core : Nat) (s : State) : Out :=
  if (s.core core).stall.isEmpty then .next s else .next (s.request (clusterOf core) true)

/-- NOPREEMPT_OVERRUN (R148): 100,000 cycles have passed since NPBEG. NP is cleared at once, and the fault is raised before
the group's next instruction. -/
def execNopreemptOverrun (g : Nat) (s : State) : Out :=
  let x := s.group g
  if !x.np || x.retired then .next s
  else
    let s := s.setGroup g { x with np := false, overrun := true }
    .next (s.passClock x.core (BitVec.ofNat 64 (min (2 ^ 64 - 1) (max (s.core x.core).clock.toNat (x.npClock.toNat + 100000)))))

/-! ### Saving (R340 to R342) -/

/-- The wait with which a group is saved (R340): a group that waits at a commit point is saved as waiting; else its instruction is
performed again. A swap-out keeps the page service for its fault (R332). -/
def Wait.saved (swap : Bool) : Wait → Wait
  | .watermark _ | .hold | .endJoin | .chcfg _ => .none
  | .page f => if swap then .page f else .none
  | w => w

/-- A group as it is saved (R340), at this boundary as its commit point: its stores enter the view. -/
def State.saveGroup (s : State) (swap : Bool) (g : Nat) : State :=
  (s.flush g).modGroup g fun x => { x with preempt := false, wait := x.wait.saved swap }

/-- A group of a discarded unit (R342): at its region's START, as checkpointed there, with the masks `exec`, `live` and `ended` that it had,
so that a lane killed or ended since is as it was there (DEDUCED, log entry 39). Counters 0 and 10, which depend on the program alone, are
as they were, so that what is run again counts once (R349). The lanes of the speculative region held there whose reads have been met by a
store or poison since have their aborts to take (DEDUCED, log entry 39). A swap-out keeps the page service for its fault (R332). -/
def Group.discard (x : Group) (e : Idem) (swap : Bool) : Group :=
  let wait := match x.wait with | .page f => if swap then .page f else .none | _ => .none
  { x with th := e.th, stkptr := e.ptr, hnd := none, wait := wait, region := e.region, gated := [], passed := 0,
           atPoint := true, conflict := e.conflict, ue := e.ue, charge := false, preempt := false,
           perf := (x.perf.put 0 (Tab.get 0 e.perf 0)).put 10 (Tab.get 0 e.perf 10),
           idem := x.idem.filter fun y => decide (y.th.depth < e.th.depth) }

/-- The WAIT field of a group record (R341). -/
def Wait.code : Wait → Nat
  | .barrier _ _ _ _ => 1
  | .waitc _ => 2
  | .yieldc _ _ => 3
  | .yield => 4
  | .qpop _ _ _ _ _ => 5
  | .halt => 6
  | _ => 0

/-- The header of the record that a save area holds of a group (R341). -/
def Group.header (x : Group) : List DWord :=
  let t := x.outer
  let chan := match x.wait with | .yieldc c _ => c | _ => 0
  let token := match x.wait with | .barrier _ w _ _ => w.toNat | .yieldc _ _ => t.pc | _ => 0
  [t.pc + x.grpid * 2 ^ 32 + (if x.hnd.isSome then 2 ^ 40 else 0) + (if x.np then 2 ^ 41 else 0) + x.wait.code * 2 ^ 42
      + chan * 2 ^ 46,
   t.exec.toNat + t.live.toNat * 2 ^ 32, t.strand.toNat + t.ended.toNat * 2 ^ 32, t.depth + t.stack.length * 2 ^ 32,
   x.stkptr.toNat, x.stklim.toNat, x.faultc.toNat + x.abortc.toNat * 2 ^ 16 + token * 2 ^ 32,
   x.faultva.toNat].map (BitVec.ofNat 64)

/-- Remove what memory, history and views hold of a range of locations: it reads zero (R163, R342). -/
def State.zeroRange (s : State) (a n : Nat) : State :=
  let out (k : Nat) : Bool := !(decide (a ≤ k) && decide (k < a + n))
  { s with
    mem := s.mem.filter fun (k, _) => out k,
    poison := s.poison.filter fun (k, _) => out k,
    hist := s.hist.filter fun e => out e.loc,
    cores := s.cores.mapVals fun _ c => { c with
      view := c.view.filter fun (k, _) => out k,
      floor := c.floor.filter fun (k, _) => out k,
      stores := c.stores.filter fun st => out st.w.loc } }

/-- Discard the blocks of a unit (R342): unstarted engine operations are dropped; scratchpads, tiles, result queues and
channels go back to their block-start state. The B store is no part of that: it is saved and restored (R266). Operations that have finished
keep their writes to global memory and the B store and their faults for the join to come; those to scratchpads are lost with them (DEDUCED,
log entry 39). -/
def State.discardUnit (s : State) (swap : Bool) (bs : List Nat) : State :=
  let mine (o : EngOp) : Bool := bs.contains o.block
  let inScratch (a : Nat) : Bool := bs.any fun b => decide (scratchKey b ≤ a) && decide (a < scratchKey b + 0x100000000)
  let drop (o : EngOp) : EngOp := if mine o then { o with wrote := o.wrote.filter fun w => !inScratch w.loc } else o
  let s := s.dropOps mine
  let s := { s with ops := s.ops.mapVals fun _ o => drop o }
  let s := bs.foldl (fun s b => s.zeroRange (scratchKey b) 0x100000000) s
  let s := bs.foldl (fun s b => s.modBlock b fun x => { x with chans := [], queues := [], tiles := [] }) s
  let back (x : Group) : Group := match s.idemIn x with | some e => x.discard e swap | none => x
  { s with groups := s.groups.mapVals fun _ x => if bs.contains x.block && !x.retired then back x else x }

/-- The first group of each core that holds some blocks. -/
def State.leadGroups (s : State) (bs : List Nat) : List (Nat × Nat) :=
  bs.foldl (fun acc b =>
    let x := s.block b
    match x.groups with
    | g :: _ => if acc.any (fun y => y.1 == x.core) then acc else acc ++ [(x.core, g)]
    | [] => acc) []

/-- The cores of a unit's clusters that make the release of a pre-emption (R173, R340), each with a group: one of its resident blocks, or
else one that has left stores there. -/
def State.unitCores (s : State) (cls bs : List Nat) : List (Nat × Nat) :=
  let lead := s.leadGroups bs
  lead ++ (cls.flatMap fun c => (List.range 4).map (4 * c + ·)).filterMap fun c =>
    if lead.any fun x => x.1 == c then none else (s.core c).stores.head?.map fun st => (c, st.grp)

/-- The additions that the groups of a core have joined: they come before the release that the core makes at a pre-emption (R224, R340). -/
def State.coreAdds (s : State) (c : Nat) : List Nat := s.groups.flatMap fun (_, x) => if x.core == c then x.adds else []

/-- The bytes of a range of locations that are not zero, or poisoned, by offset. -/
def State.imageOf (s : State) (a n : Nat) : List (Nat × MByte) :=
  let held (k : Nat) : Bool := decide (a ≤ k) && decide (k < a + n)
  ((s.mem.filter fun (k, _) => held k).map fun (k, v) => (k - a, ⟨v, s.poison.has k⟩))
    ++ (s.poison.filter fun (k, _) => held k && (Tab.find? s.mem k).isNone).map fun (k, _) => (k - a, ⟨0, true⟩)

/-- The B store of a cluster, by offset. -/
def State.bstoreImage (s : State) (cl : Nat) : List (Nat × MByte) := s.imageOf (bstoreKey cl) 0x800000

/-! ### The save area (R341) -/

/-- An entry of a register image (R326, R341): class 0 vector, 1 scalar, 2 predicate. Where the register lay natively is opaque. -/
def imageEntry (rclass index : Nat) : DWord :=
  BitVec.ofNat 64 (index + rclass * 2 ^ 14 + Config.nativeCode [] (index + rclass * 2 ^ 14) % 2 ^ 32 * 2 ^ 32)

/-- The register images of a group's registers: 4 bytes a lane, a 32-bit mask, or 8 bytes (R341). A register never written has none,
and reads zero. -/
def Regs.images (r : Regs) : List (DWord × List Byte) :=
  (((r.v.map fun (k, _) => k / 32).eraseDups).map fun i =>
      (imageEntry 0 i, (List.range 32).flatMap fun l => leBytes 4 (r.vec i l).toNat))
    ++ (r.s.map fun (i, x) => (imageEntry 1 i, leBytes 8 x.toNat)) ++ r.p.map fun (i, x) => (imageEntry 2 i, leBytes 4 x.toNat)

/-- The record of a group in its save area. -/
def State.groupRec (s : State) (g : Nat) (x : Group) : GroupRec :=
  { stack := x.outer.stack, copies := outstanding (s.counted g false), tiles := outstanding (s.counted g true), perf := x.perf,
    code := x.region.code, hnd := x.hnd, images := x.outer.regs.images,
    handlerTh := if x.hnd.isSome then some x.th else none, handlerImages := if x.hnd.isSome then x.th.regs.images else [] }

/-- The record of a block: a discarded one keeps its barrier states alone (R342). -/
def State.blockRec (s : State) (discarded : Bool) (b : Nat) : BlockRec :=
  let x := s.block b
  let bars := s.barriers.filter fun (k, _) => k / 16 % 4 == 1 && k / 64 == b
  if discarded then
    { lin := x.lin, rank := x.rank, discarded := true, scratch := [], chans := [], queued := [], queues := [], barriers := bars, pool := [] }
  else
    { lin := x.lin, rank := x.rank, discarded := false,
      scratch := s.imageOf (scratchKey b) (s.scratchOf b),
      chans := x.chans, queued := s.ops.filter fun (_, o) => o.block == b && o.st == .queued, queues := x.queues, barriers := bars,
      pool := (s.core x.core).pool.filter fun (_, g) => (s.group g).block == b }

/-- The record of a hardware cluster with its blocks `bs`. -/
def State.clusterRec (s : State) (discarded : Bool) (bs : List Nat) : ClusterRec :=
  { barriers := s.barriers.filter fun (k, _) => k / 16 % 4 == 2 && bs.any fun b =>
      k / 64 == (s.block b).launch * 0x100000000 + (s.block b).clus,
    tiles := if discarded then [] else bs.map fun b => (b, (s.block b).tiles),
    commands := (s.ops.filter fun (_, o) => bs.contains o.block && o.kind.tile.isSome && o.st == .queued).map (·.1) }

/-- A cluster with no pre-emption asked for. -/
def Cluster.settled (k : Cluster) : Cluster :=
  { k with preempt := false, swap := false, poolWait := false, taken := false, discard := false }

/-- Save the blocks of a unit (R340, R341), or discard them. Either way each core of the unit makes its release (R173), and the B stores are
saved (R266). -/
def State.saveUnit (s : State) (cls : List Nat) : State :=
  let bs := s.residentOn cls
  let swap := cls.any fun c => (s.cluster c).swap
  let discarded := (cls.any fun c => (s.cluster c).discard) && s.discardable bs
  let s := if discarded then s.discardUnit swap bs else (s.groupsIn bs).foldl (fun s (g, _) => s.saveGroup swap g) s
  let s := (s.unitCores cls bs).foldl (fun s (c, g) => (s.releaseOn c g 3 15 (s.coreAdds c)).2.2.completeAll c) s
  let image := cls.map fun c => (c, s.bstoreImage c)
  let u : MoveUnit :=
    { blocks := bs, discarded := discarded, bstore := image,
      headers := (s.groupsIn bs).map fun (g, x) => (g, x.header),
      groupRecs := (s.groupsIn bs).map fun (g, x) => (g, s.groupRec g x),
      blockRecs := bs.map fun b => (b, s.blockRec discarded b),
      clusterRecs := cls.map fun c => (c, s.clusterRec discarded (bs.filter fun b => clusterOf (s.block b).core == c)),
      grid := s.barriers.filter fun (k, _) => k / 16 % 4 == 3 && bs.any fun b => k / 64 == (s.block b).launch }
  let gone (g : Nat) : Bool := bs.contains (s.group g).block
  let s := { s with
    units := s.units.put (Tab.fresh s.units) u,
    blocks := s.blocks.mapVals fun b x => if bs.contains b then { x with st := .saved } else x,
    cores := s.cores.mapVals fun c k => if cls.contains (clusterOf c) then
        { k with stall := k.stall.filter fun g => !gone g, pool := k.pool.filter fun (_, g) => !gone g,
                 arrayQ := k.arrayQ.filter fun o => !bs.contains (s.op o).block }
      else k,
    clusters := s.clusters.mapVals fun c k =>
      if cls.contains c then k.settled else k }
  (cls.flatMap fun c => (List.range 4).map (4 * c + ·)).foldl State.fitWays s

/-- The bytes that the scratchpads, but for a unit discarded, and B stores of a unit need at least in the save pool (R341). -/
def State.saveBytes (s : State) (discarded : Bool) (bs cls : List Nat) : Nat :=
  (if discarded then [] else bs).foldl (fun n b => n + s.scratchOf b) (0x800000 * cls.length)

/-- Whether a context is stopped for an aborted slice: what would be saved of it is discarded (R376). -/
def State.stopping (s : State) (ctx : Nat) : Bool :=
  ((s.ctx ctx).word 34).getLsbD 63 && (Tab.get ({} : Gang) s.gangs ((s.ctx ctx).field 34 23 0)).aborting

/-- Whether the save pool of a context is too small for a unit (R341): the layout of the save area gives a least size; above
it, a free value decides (DESIGN CHOICE, log entry 24). A context that an aborted slice stops needs none (R376). -/
def State.poolSmall (s : State) (discarded : Bool) (bs cls : List Nat) : Bool × State :=
  match bs with
  | [] => (false, s)
  | b :: _ =>
    let ctx := s.ctxOfBlock b
    if s.stopping ctx then (false, s) else
    let used := s.units.foldl (fun n (_, u) =>
      if (u.blocks.head?.map s.ctxOfBlock) == some ctx then
        n + s.saveBytes u.discarded u.blocks (u.bstore.map (·.1)) else n) 0
    if (s.ctx ctx).field 25 51 0 < used + s.saveBytes discarded bs cls then (true, s)
    else
      let (q, s) := s.draw
      (q % 2 = 1, s)

/-- Whether a requested pre-emption of a cluster's unit can be taken: no group holds NP, its engine operations in flight
have finished, and no atomic has lanes left to perform (R340). -/
def State.preemptible (s : State) (cl : Nat) : Bool :=
  let bs := s.residentOn (s.unitClusters cl)
  (s.cluster cl).preempt && !s.npHeld bs && !(s.ops.any fun (_, o) => bs.contains o.block && o.st == .started)
    && !((s.groupsIn bs).any fun (_, x) => match x.wait with | .lanes _ => true | _ => false)

/-- PREEMPTION (R340 to R342; DEDUCED, log entry 16): it waits until open regions have closed (R316), and for a save pool that is
large enough, while the unit keeps running (R341). -/
def execPreemption (cl : Nat) (s : State) : Out :=
  if !s.preemptible cl then .next s
  else
    let cls := s.unitClusters cl
    let bs := s.residentOn cls
    if bs.isEmpty then .next (s.modCluster cl Cluster.settled)
    else if !(s.cluster cl).taken then .next (s.request cl false)
    else
      let discard := (s.cluster cl).discard && s.discardable bs
      let due := (s.groupsIn bs).any fun (_, x) => if discard then x.overrun else x.openHere || x.unsettled
      -- what is due before the request of a unit to be discarded comes first (R339)
      if discard && due then .next s
      else
        let s := if discard then s else cls.foldl (fun s c => s.modCluster c fun k => { k with discard := false }) s
        let (small, s) := s.poolSmall discard bs cls
        if small then
          let s := { s with groups := s.groups.mapVals fun _ x => if bs.contains x.block then { x with preempt := false } else x }
          .next (cls.foldl (fun s c => s.modCluster c fun k => { k with poolWait := true }) s)
        else if due then .next (s.request cl false)
        else .next (s.saveUnit cls)

/-! ### Resuming (R343) -/

/-- Every order of a list. -/
def ordersOf : Nat → List Nat → List (List Nat)
  | 0, _ => [[]]
  | n + 1, xs => xs.flatMap fun x => (ordersOf n (xs.filter (· != x))).map fun t => x :: t

/-- A write of an operation that has finished and is not joined, after its cluster's B store has moved (R242, R266). -/
def Write.rehome (w : Write) (old new : Nat) : Write :=
  let a := bstoreKey old
  if a ≤ w.loc ∧ w.loc < a + 0x800000 then { w with loc := w.loc - a + bstoreKey new } else w

/-- Move one saved block to a core, if it fits and the launch has a translation for the core's class (R18, R163, R332, R343): halves,
pool slots and operations move with it. Each SPAWN group takes its half by R142 anew, in the order of its block's groups (DEDUCED, log
entry 76). -/
def State.moveBlock (s : State) (b core : Nat) : Option State :=
  let x := s.block b
  let k := (s.launch x.launch).kernel
  let ctx := s.ctxOfBlock b
  if (s.loadWith ctx core k).isNone || !s.codeReady x.launch core then none
  else match s.splitOf core k, s.scrHole core k.scratch with
    | some (n0, _), some scr =>
      let s := s.modBlock b fun x => { x with core := core, scr := scr, st := .resident }
      let s := { s with ops := s.ops.mapVals fun _ o => if o.block == b then
        { o with core := core, wrote := o.wrote.map fun w => w.rehome (clusterOf x.core) (clusterOf core) } else o }
      some ((x.groups.foldl (fun (s : State) g =>
        let y := s.group g
        if y.grpid < 32 then s.setGroup g { y with core := core, half := halfFor k.l16 k.nGroups n0 y.grpid }
        else
          let s := s.setGroup g { y with core := core, half := s.spawnHalf core }
          if y.retired then s else s.modCore core fun c => { c with pool := c.pool.put (y.grpid - 32) g }) s).fitWays core)
    | _, _ => none

/-- Move the blocks of one old cluster to a new one, old core positions going to the positions `order`. -/
def State.moveBlocks (s : State) (new : Nat) (order : List Nat) : List Nat → Option State
  | [] => some s
  | b :: t =>
    let pos := (s.block b).core % 4
    match order[pos]? with
    | none => none
    | some p => (s.moveBlock b (4 * new + p)).bind fun s => s.moveBlocks new order t

/-- Restore a cluster's B store and the array queues of its cores (R266, R340). -/
def State.restoreCluster (s : State) (new : Nat) (image : List (Nat × MByte)) : State :=
  let s := image.foldl (fun s (o, v) => s.homeWrite (bstoreKey new + o) [v]) (s.zeroRange (bstoreKey new) 0x800000)
  (List.range 4).foldl (fun s i =>
    s.modCore (4 * new + i) fun k => { k with arrayQ := (s.ops.filter fun (_, o) =>
      o.core == 4 * new + i && o.kind.tile.isSome && o.st == .queued && (s.block o.block).st == .resident).map (·.1) }) s

/-- Whether a hardware cluster can take saved blocks of a context: in service, empty, allotted, with no request pending
(DEDUCED, log entry 40). -/
def State.clusterEmpty (s : State) (ctx cl : Nat) : Bool :=
  let k := s.cluster cl
  (s.ctx ctx).clusters.contains cl && k.inService && !k.underTest && !k.preempt && s.dieManaged (cl / 32)
    && (s.blocksOnCluster cl).isEmpty

/-- The map of a launch after the cluster of logical number `i` has moved to a hardware cluster (R24): a number that had that
cluster takes the old one. -/
def movedMap (map : List Nat) (i new : Nat) : List Nat :=
  let was := (map[i]?).getD new
  (match map.findIdx? (· == new) with | some j => map.set j was | none => map).set i new

/-- The positions of a logical cluster's cores after their blocks have moved from position `p` to position `order[p]` (R24). -/
def movedCores (pos order : List Nat) : List Nat := pos.map fun p => (order[p]?).getD p

/-- Move the blocks of an old cluster to the first hardware cluster that holds them, in the first order of cores that does
(DESIGN CHOICE, log entry 69). -/
def State.moveCluster (s : State) (ctx : Nat) (bs : List Nat) (image : List (Nat × MByte)) : Option State :=
  (List.range 128).findSome? fun new =>
    if !s.clusterEmpty ctx new then none
    else (ordersOf 4 [0, 1, 2, 3]).findSome? fun order =>
      (s.moveBlocks new order bs).map fun (s : State) =>
        let s := s.restoreCluster new image
        match bs with
        | b :: _ =>
          let y := s.block b
          s.modLaunch y.launch fun x =>
            { x with clusters := movedMap x.clusters (y.lidCore / 4) new,
                     corePos := x.corePos.put (y.lidCore / 4) (movedCores (Tab.get [0, 1, 2, 3] x.corePos (y.lidCore / 4)) order) }
        | [] => s

/-- Move every cluster of a unit, or none. -/
def State.moveUnit (s : State) (ctx : Nat) (u : MoveUnit) : List Nat → Option State
  | [] => some s
  | old :: t =>
    let bs := u.blocks.filter fun b => clusterOf (s.block b).core == old && (s.block b).st == .saved
    (s.moveCluster ctx bs (((u.bstore.find? fun x => x.1 == old).map (·.2)).getD [])).bind fun s => s.moveUnit ctx u t

/-- UNIT_RESUME (R340, R343): the unit is restored once no page fault of it waits for service; each restoring core first
makes an acquire at `.dev`. -/
def execUnitResume (u : Nat) (s : State) : Out :=
  match s.units.find? u with
  | none => .next s
  | some x =>
    match x.blocks with
    | [] => .next { s with units := s.units.filter fun (k, _) => k != u }
    | b :: _ =>
      let ctx := s.ctxOfBlock b
      if !s.gangOpen ctx || (s.groupsIn x.blocks).any fun (_, g) => g.serviced.isSome then .next s
      else
        let olds := x.blocks.foldl (fun (acc : List Nat) b =>
          let c := clusterOf (s.block b).core
          if acc.contains c then acc else acc ++ [c]) []
        match s.moveUnit ctx x olds with
        | none => .next (s.startTrans (s.block b).launch)
        | some s =>
          let s := { s with units := s.units.filter fun (k, _) => k != u }
          .next ((s.leadGroups x.blocks).foldl (fun s (_, g) => s.acquire g 3 15) s)

/-- The hardware clusters that the Mallet cores allot to a context (R364): a free choice among those in service, no fewer than its
share of them (DESIGN CHOICE, log entry 32). -/
def State.allot (s : State) (ctx : Nat) : State :=
  let (q, s) := s.draw
  let all := (List.range 128).filter fun c => (s.cluster c).inService
  let some_ := all.filter fun c => q.testBit c
  let need := max 1 ((all.length * (s.ctx ctx).field 33 7 0 + 255) / 256)
  s.modCtx ctx fun c => { c with clusters := if some_.length < need then all else some_ }

/-- TIME_SLICE_EXPIRY (R364): the context's units are to be pre-empted, and clusters are allotted anew. -/
def execTimeSliceExpiry (ctx : Nat) (s : State) : Out :=
  if (s.contexts.find? ctx).isNone then .next s
  else
    let cls := (s.blocks.filter fun (b, x) => x.st == .resident && s.ctxOfBlock b == ctx).map fun (_, x) => clusterOf x.core
    .next (((cls.foldl (fun s c => s.request c false) s).allot ctx).retranslate)

end Sys2Proof.Machine
end

