-- ==== Sys2Proof/Machine/Side.lean ====
section
/-! DEFINITION. The side-table records of native code (R326, R327, R410): the registers that a function may have written at a
point, and what an entry may say of one. -/

namespace Sys2Proof

/-! ### Registers that an instruction writes -/

/-- A register of a function: class 0 vector, 1 scalar, 2 predicate, and index. -/
abbrev RegName := Nat × Nat

/-- The destination of an entry of the classes 0x00 to 0x5F. -/
def AluRow.writes (r : AluRow) (f : Alu) : List RegName :=
  let d := f.d.toNat
  let vec (wide : Bool) : List RegName := if f.u then [(1, d)] else if wide then [(0, d), (0, d + 1)] else [(0, d)]
  match r.d with
  | .none | .voteA => []
  | .vec => vec f.ty.wide
  | .vec32 => vec false
  | .vec64 => vec true
  | .scal => [(1, d)]
  | .pred => [(2, d)]
  | .predU => if f.u then [(1, d)] else [(2, d)]
  | .byDst => vec ((Ty.ofCode f.sub.toNat).any Ty.wide)
  | .voteD => if f.sub == 2 then [(1, d)] else [(2, d)]

/-- `n` registers of a class from an index on. -/
def regRun (cls d n : Nat) : List RegName := (List.range n).map fun i => (cls, d + i)

/-- The destination of a load or an atomic. -/
def dataWrites (d : Idx) (su wide : Bool) : List RegName :=
  if su then [(1, d.toNat)] else regRun 0 d.toNat (if wide then 2 else 1)

/-- The registers of its own function that an instruction may write. -/
def Instr.writes : Instr → List RegName
  | .iadd f | .isub f | .imul f => rowArith.writes f
  | .imulhi f | .imin f | .imax f => rowMulhi.writes f
  | .imad f => rowMad.writes f
  | .iabs f => rowAbs.writes f
  | .and f | .or f | .xor f | .andn f => rowBits.writes f
  | .shl f | .shr f | .rot f => rowShift.writes f
  | .sar f => rowSar.writes f
  | .popc f | .clz f => rowCount.writes f
  | .brev f => rowBrev.writes f
  | .bfe f => rowBfe.writes f
  | .bfi f => rowBfi.writes f
  | .icmp f => rowIcmp.writes f
  | .sel f => rowSel.writes f
  | .mov f => rowMov.writes f
  | .movi f => rowMovi.writes f
  | .lea f => rowLea.writes f
  | .iaddc f => (2, f.sub.toNat) :: rowIaddc.writes f
  | .pset f => [(2, f.d.toNat)]
  | .dp4 f => rowDp4.writes f
  | .isad f => rowIsad.writes f
  | .fadd f | .fsub f | .fmul f => rowFadd.writes f
  | .ffma f => rowFfma.writes f
  | .fmin f | .fmax f => rowFmin.writes f
  | .frcp f | .frsq f | .fex2 f => rowApproxSat.writes f
  | .fsqrt f => rowFsqrt.writes f
  | .flg2 f | .fsin f | .fcos f | .ftanh f => rowApprox.writes f
  | .fcmp f => rowFcmp.writes f
  | .fclass f => rowFclass.writes f
  | .frnd f => rowFrnd.writes f
  | .cvt f => rowCvt.writes f
  | .fpack f => rowFpack.writes f
  | .hpadd f | .hpmul f => rowHp.writes f
  | .hpfma f => rowHpfma.writes f
  | .add2 f | .sub2 f => rowAdd2.writes f
  | .max2 f | .min2 f | .shl2 f | .shr2 f => rowPacked.writes f
  | .sel2 f => rowSel2.writes f
  | .cmp2 f => rowCmp2.writes f
  | .shfl f => rowShfl.writes f
  | .qswp f => rowQswp.writes f
  | .qbcast f => rowQbcast.writes f
  | .vote f => rowVote.writes f
  | .gred f => rowGred.writes f
  | .gscan f => rowGscan.writes f
  | .lget f => rowLget.writes f
  | .lput f => rowLput.writes f
  | .matchOp f => rowMatch.writes f
  | .call f | .callx f => regRun 0 f.d.toNat f.nr.toNat ++ regRun 1 f.c.toNat f.nsr.toNat
  | .spawn f => [(1, f.d.toNat)]
  | .ld f | .lds f | .ldc f | .ldp f => dataWrites f.d f.su (f.acc == .b64)
  | .atom f | .atoms f | .atomp f | .acas f | .acass f => dataWrites f.d f.su f.ty.wide
  | .barv f | .barq f => [(1, f.d.toNat)]
  | .wmark f => [(1, f.d.toNat)]
  | .qpop f => [(0, f.d.toNat)]
  | .qstat f => [(1, f.d.toNat)]
  | .nput f | .nhash f => (2, f.c.toNat) :: regRun 1 f.d.toNat 3
  | .nroot f => regRun 1 f.d.toNat 4
  | .nswap f => (2, f.c.toNat) :: regRun 1 f.d.toNat 4
  | .npin f | .nunpin f => [(1, f.d.toNat)]
  | .nbind f | .nunbind f => [(1, f.d.toNat)]
  | .nstat f => [(1, f.d.toNat)]
  | .tstat f => match f.sub with | .code => [(0, f.d.toNat)] | _ => [(1, f.d.toNat)]
  | .sget f => if f.u then [(1, f.d.toNat)] else regRun 0 f.d.toNat (if f.sp.wide then 2 else 1)
  | .perf f => [(1, f.d.toNat)]
  | _ => []

/-- Whether an instruction reads or writes ranges of registers that its fields do not show: calls, returns and SPAWN. -/
def Instr.crosses : Instr → Bool
  | .call _ | .callx _ | .ret _ | .spawn _ => true
  | _ => false

end Sys2Proof

namespace Sys2Proof.Machine

/-! ### What stands before and after a point -/

/-- The words of a body from which a point can be reached. -/
def Kernel.before (k : Kernel) (b w : Nat) : List Nat :=
  (List.range (k.bodyEnd b - b)).filterMap fun i =>
    if isBase k.code (b + i) && (k.reachFrom b (k.succs b (b + i)) fun _ => false).contains w then some (b + i) else none

/-- The argument registers that any call of the object passes (R127). -/
def Kernel.argCounts (k : Kernel) : Nat × Nat :=
  (List.range k.code.length).foldl (fun (a : Nat × Nat) n =>
    if !isBase k.code n then a
    else match instrAt k.code n with
      | .ok (.call f) | .ok (.callx f) => (max a.1 f.na.toNat, max a.2 f.ns.toNat)
      | _ => a) (0, 0)

/-- The registers that may have been written when word `w` of a body comes next (R35, R326): by words before it, as arguments of
the function, or at the start of a SPAWN group (R142). Each class in ascending order. -/
def Kernel.writtenAt (k : Kernel) (b w : Nat) : List RegName :=
  let (na, ns) := k.argCounts
  let args := if k.isFunction b then regRun 0 0 na ++ regRun 1 0 ns else []
  let spawned := if k.entries.any fun e => e.kind == 1 && k.bodyOf e.woff == b then regRun 1 0 2 else []
  let all := args ++ spawned ++ (k.before b w).flatMap fun n => match instrAt k.code n with | .ok i => i.writes | .error _ => []
  let all := (all.filter fun r => r.2 != 16383 && !(r.1 == 2 && r.2 == 15)).eraseDups
  all.mergeSort fun x y => decide (x.1 < y.1) || (x.1 == y.1 && decide (x.2 ≤ y.2))

/-- Whether a word's fields D, A, B and C, with the seven registers that follow each, may name an index (R30). -/
def wordNames (code : List DWord) (n i : Nat) : Bool :=
  let at_ (x : Nat) : Bool := decide (x ≤ i) && decide (i < x + 8)
  let w := ((code[n]?).getD 0).toNat
  let e := ((code[n + 1]?).getD 0).toNat
  at_ (nbits w 43 30) || at_ (nbits w 29 16) || (nbits w 1 0 != 1 && at_ (nbits w 15 2))
    || (nbits w 50 50 == 1 && nbits e 49 48 != 1 && at_ (nbits e 63 50))

/-- Whether a register of index `i` may be dead at word `w`: no word reached from it names the index, and none crosses into another
function (R327). It may be more registers than these. -/
def Kernel.deadAt (k : Kernel) (b w i : Nat) : Bool :=
  (k.reachFrom b [w] fun _ => false).all fun n =>
    n == exitNode || (!wordNames k.code n i && match instrAt k.code n with | .ok x => !x.crosses | .error _ => false)

/-- The instruction that ends where word `w` begins, if straight code leads from it to `w` alone. -/
def Kernel.justBefore (k : Kernel) (b w : Nat) : Option Nat :=
  match (List.range (k.bodyEnd b - b)).filter fun i => isBase k.code (b + i) && (k.succs b (b + i)).contains w with
  | [i] => if k.succs b (b + i) == [w] && b + i + lenAt k.code (b + i) == w && !(k.entries.any fun e => e.woff == w)
    then some (b + i) else none
  | _ => none

/-- The value of a scalar register that a MOV of an immediate gave it on the straight way to word `w`, if bits 31:0 sign-extended
are that value (R326). -/
def Kernel.constAt (k : Kernel) (b w i : Nat) : Nat → Option Nat
  | 0 => none
  | fuel + 1 =>
    match k.justBefore b w with
    | none => none
    | some n =>
      match instrAt k.code n with
      | .ok (.mov f) =>
        if f.u && f.d.toNat == i && f.guard.uniform then
          let v := match f.b with
            | .imm14 x => some ((x.signExtend 64).toNat % 2 ^ f.ty.width)
            | .imm32 x => some x.toNat
            | _ => none
          v.bind fun x => if x < 2 ^ 31 then some x else none
        else if (Instr.mov f).writes.contains (1, i) then none else k.constAt b n i fuel
      | .ok x => if x.crosses || x.writes.contains (1, i) then none else k.constAt b n i fuel
      | .error _ => none

/-! ### Records (R326) -/

/-- The key of a translation as bytes: what the native code depends on (R328, R330). -/
def Trans.keyBytes (t : Trans) : List Byte :=
  t.digest ++ leBytes 1 t.cls ++ leBytes 1 (if t.keep then 1 else 0) ++ leBytes 4 t.version ++ leBytes 4 t.generation

/-- The entry of a register in the record of a native PC at word `w` (R326): in a native register or a spill slot, which is opaque;
constant where the code shows its value; or dead where nothing reads it, and never where the translation keeps registers (R327;
DESIGN CHOICE, log entry 26). -/
def sideEntry (k : Kernel) (t : Trans) (npc b w : Nat) (r : RegName) : DWord :=
  let q := Config.nativeCode t.keyBytes (npc + 2 ^ 32 * (1 + r.1 + 4 * r.2))
  let const := if r.1 = 1 then k.constAt b w r.2 64 else none
  let locs := [0, 1] ++ (if const.isSome then [2] else []) ++ if r.1 != 2 && !t.keep && k.deadAt b w r.2 then [3] else []
  let loc := (locs[q % locs.length]?).getD 0
  let value := match const with
    | some v => if loc = 2 then v else q / 4 % 2 ^ 32
    | none => q / 4 % 2 ^ 32
  BitVec.ofNat 64 (r.2 + r.1 * 2 ^ 14 + loc * 2 ^ 16 + value * 2 ^ 32)

/-- The side-table record of a native PC in a translation of a kernel, if there is one (R326, R410): which native PC stands where is
not architectural (DESIGN CHOICE, log entry 26). An idempotent entry stands at a region's START, and a TRY checkpoint at a TRY. A
register that cannot have been written has no entry. -/
def sideOf (k : Kernel) (t : Trans) (npc : Nat) : Option (List DWord) :=
  let q := Config.nativeCode t.keyBytes npc
  let bases := (List.range k.code.length).filter fun n => isBase k.code n
  match bases[q / 2 % max 1 bases.length]? with
  | none => none
  | some w =>
    if q % 2 = 0 then none
    else
      let kinds := [0, 1] ++ (if k.idem.any fun r => r.1 == w then [2] else [])
        ++ (match instrAt k.code w with | .ok (.tryOp _) => [3] | _ => [])
      let kind := (kinds[q / 2 ^ 32 % kinds.length]?).getD 0
      let b := k.bodyOf w
      let es := ((k.writtenAt b w).take 4093).map fun r => sideEntry k t npc b w r
      some (BitVec.ofNat 64 (8 * w + k.funcIndex b % 2 ^ 16 * 2 ^ 32 + es.length * 2 ^ 48)
        :: BitVec.ofNat 64 (npc + t.cls * 2 ^ 32 + kind * 2 ^ 36) :: es)

/-- The side-table record of a context at a native PC: of the first of its launches' translations that has one, under the context's
key (R326, R328). -/
def State.sideRecord (s : State) (ctx npc : Nat) : Option (List DWord) :=
  (s.launches.filter fun (_, x) => x.ctx == ctx && !x.kernel.code.isEmpty).findSome? fun (l, x) =>
    (List.range 16).findSome? fun cls =>
      match s.transFor l cls with
      | some (_, t) => if t.done then sideOf x.kernel t npc else none
      | none => none

end Sys2Proof.Machine
end

