-- ==== Sys2Proof/Machine/Manage.lean ====
section
/-! DEFINITION. The management interface and the host's registers: mailbox commands and their replies, teardown of a
context, interrupts and registers (R352, R365 to R370, R390, R391, R395, R397). -/

namespace Sys2Proof

/-- Operand word `n`, and bits hi:lo of it. -/
def Cmd.op (c : Cmd) (n : Nat) : Nat := ((c.ops[n]?).getD 0).toNat
def Cmd.bits (c : Cmd) (n hi lo : Nat) : Nat := Machine.nbits (c.op n) hi lo

/-- The bytes that a signed command's signatures cover (R370). -/
def Cmd.signed (c : Cmd) (code : Nat) : List Byte :=
  Machine.leBytes 8 (code + c.nopw * 2 ^ 16 + c.tag.toNat * 2 ^ 32) ++ Machine.leBytes 8 c.nonce.toNat
    ++ c.ops.flatMap fun w => Machine.leBytes 8 w.toNat

end Sys2Proof

namespace Sys2Proof.Machine

/-! ### Replies (R368) -/

/-- Reply statuses. -/
def rsOk : Nat := 0
def rsBadCode : Nat := 1
def rsBadOperand : Nat := 2
def rsBusy : Nat := 3
def rsNoResource : Nat := 4
def rsBadSignature : Nat := 5
def rsNonceUsed : Nat := 6
def rsRefused : Nat := 7

/-- What a command comes to: a status, reply words, and the state it makes. -/
abbrev Reply := Nat × List DWord × State

/-- A mailbox. -/
def State.mailbox (s : State) (i : Nat) : Mailbox := Tab.get {} s.mailboxes i

/-- Whether a mailbox takes a command: a submission while DOORBELL reads 1 is ignored, but for the command in hand itself (R368). -/
def Mailbox.serves (m : Mailbox) (c : Cmd) : Bool := !m.doorbell || (match m.waiting with | some (k, _) => k == c | none => false)

/-- Write a reply, clear DOORBELL, and signal the IRQCTL vector when it is enabled (R368). The reply area holds its header and 4,095
words. -/
def State.answer (s : State) (c : Cmd) (status : Nat) (ws : List DWord) : State :=
  let m := s.mailbox c.mbox
  let ws := ws.take 4095
  let h : DWord := BitVec.ofNat 64 (status + ws.length * 2 ^ 16 + c.tag.toNat * 2 ^ 32)
  let s := { s with mailboxes := s.mailboxes.put c.mbox { m with doorbell := false, rsp := h :: ws, waiting := none } }
  if m.irqctl.getLsbD 7 then s.signal 0 (m.irqctl.toNat % 128) else s

/-- The command cannot be carried out yet: it stays in hand, with DOORBELL reading 1 (R368). -/
def State.later (s : State) (c : Cmd) (o : Option TestEnd) : State :=
  { s with mailboxes := s.mailboxes.put c.mbox { s.mailbox c.mbox with doorbell := true, waiting := some (c, o) } }

/-- Whether a Mallet core carries a command out now: it has booted, and the mailbox takes it. -/
def State.taken (s : State) (c : Cmd) : Bool := s.booted && decide (c.mbox < 16) && (s.mailbox c.mbox).serves c

/-- Submit an unsigned command with `n` operand words (R368): before the package has booted no Mallet core serves it; only
a status of OK changes any other state (DEDUCED, log entry 43). -/
def State.command (s : State) (c : Cmd) (n : Nat) (k : State → Reply) : Out :=
  if !s.taken c then .next s
  else if c.nopw ≠ n ∨ c.ops.length ≠ n ∨ c.nonce ≠ 0 then .next (s.answer c rsBadOperand [])
  else match k s with
    | (st, ws, s') => .next ((if st = rsOk then s' else s).answer c st ws)

/-- A reply that changes nothing. -/
def State.deny (s : State) (status : Nat) : Reply := (status, [], s)

/-- A reply of OK without words. -/
def State.done (s : State) : Reply := (rsOk, [], s)

/-! ### Contexts (R352, R367) -/

/-- Whether a context exists. -/
def State.hasCtx (s : State) (c : Nat) : Bool := (s.contexts.find? c).isSome

/-- Whether a context holds a resident or saved block. -/
def State.holdsBlock (s : State) (c : Nat) : Bool :=
  s.blocks.any fun (b, x) => x.st != .retired && s.ctxOfBlock b == c

/-- The must-be-zero fields of a descriptor (R352). -/
def descriptorOk (ws : List DWord) : Bool :=
  let w (n : Nat) : Nat := ((ws[n]?).getD 0).toNat
  nbits (w 0) 63 52 == 0 && nbits (w 1) 63 28 == 0 && (List.range 26).all fun i => w (38 + i) == 0

/-- CTX_CREATE (R352, R369). Without SR-IOV the package carries one context (DEDUCED, log entry 43). -/
def execCtxCreate (c : Cmd) (s : State) : Out :=
  s.command c 2 fun s =>
    let n := c.op 0
    if 64 ≤ n ∨ c.op 1 % 64 ≠ 0 then s.deny rsBadOperand
    else if s.hasCtx n then s.deny rsBusy
    else if !s.sriov && !s.contexts.isEmpty then s.deny rsNoResource
    else
      let ws := (List.range 64).map fun i => s.homeWord (c.op 1 + 8 * i)
      if !descriptorOk ws then s.deny rsBadOperand
      else (((s.notePhys (c.op 1) 512).setCtx n { desc := ws }).allot n).done

/-- The fabric writes of an operation complete before a reset does (R367): its packets arrive and are acknowledged, each with what its
virtual lane had sent before it, its pairs leave the merge table, and they are acknowledged too (R229, R232; DEDUCED, log entry 25). -/
def State.ackOp (s : State) (o : Nat) : State :=
  let e := s.op o
  let s := e.sent.foldl (fun s (i, v, seq, _) => s.ackUpTo i v seq) s
  let held (m : MergeEnt) : Bool := m.dst != s.pkg && m.contribs.any fun c => c.1 == s.pkg && c.2.1 == o
  let s := if e.pairs.isEmpty then s else
    { s with mergeOut := s.mergeOut ++ s.merge.filter held, merge := s.merge.filter fun m => !held m }
  s.modOp o fun e => { e with pairs := [] }

/-- Finish a started engine operation as far as it can go (R367): the oldest matrix command of a core performs, and a copy, send or pop moves
what it can. One that waits for a page stops there. -/
def State.pushOn (s : State) (o : Nat) : State :=
  let e := s.op o
  if e.st != .started then s
  else if e.kind.tile.isSome then
    if s.ops.any fun (i, x) => decide (i < o) && x.core == e.core && x.kind.tile.isSome && x.st == .started then s
    else match s.arrayPerform o with
      | some s => (s.modOp o fun e => { e with got := [] }).finishOp o
      | none => s
  else
    let s := match e.paging with
      | some va => (s.failOp o fcPageNotPresent va).modOp o fun e => { e with paging := none }
      | none => s
    let s := (s.drainElems o (s.op o).todo.length).ackOp o
    if (s.op o).done then s.finishOp o else s

/-- Finish the engine operations of a context that are in flight (R367), in `n` rounds at most: each waits for what others give it, such
as the elements of a drain or a channel that goes idle. -/
def State.finishOps (s : State) (ctx : Nat) : Nat → State
  | 0 => s
  | n + 1 =>
    let mine := s.ops.filter fun (_, o) => s.ctxOfBlock o.block == ctx && o.st == .started
    if mine.isEmpty then s else (mine.foldl (fun s (o, _) => s.pushOn o) s).finishOps ctx n

/-- Disable a queue, and unmap it first: its control block takes RD, WR and the state bits, and EN is cleared (R353, R360). -/
def State.disableQueue (s : State) (n q : Nat) : State :=
  let at_ := (s.ctx n).field 35 51 0 + 64 * q
  let w := (s.homeWord (at_ + 8)).toNat
  let s := if (s.queue n q).slot.isSome then s.unmapQueue n q else s
  let s := (s.notePhys (at_ + 8) 8).agentWrite (at_ + 8) (leMBytes 8 (w - nbits w 32 32 * 2 ^ 32))
  s.setQueue n q { s.queue n q with enabled := false }

/-- Tear a context down (R367): its grids stop without record or status; operations in flight finish, unstarted ones are
dropped; what its work has written is published or never made; its queues are unmapped and disabled; pins, windows, translations and
save areas go with it, and the translations of withdrawn objects that no one uses any more (R391). -/
def State.teardown (s : State) (ctx : Nat) : State :=
  let ls := (s.launches.filter fun (_, x) => x.ctx == ctx).map (·.1)
  let s := ls.foldl (fun s l => s.stopGrid l 0x51) s
  let s := s.finishOps ctx (s.ops.length + 1)
  let s := (s.blocks.filter fun (b, _) => s.ctxOfBlock b == ctx).foldl (fun s (b, _) => s.joinBlock b) s
  let mine (b : Nat) : Bool := s.ctxOfBlock b == ctx
  let (q, s) := s.draw
  let s := ls.foldl (fun s l => s.loseStores l q) s
  let s := ls.foldl (fun s l => (s.coresOf l).foldl (fun s (c, g) => (s.releaseOn c g 5 15 (s.addsOf mine)).2.2.completeAll c) s) s
  let s := (s.ctx ctx).pins.foldl (fun s p => (List.range p.count).foldl (fun s _ => s.decName p.dom p.name) s) s
  let s := s.readQcbs ctx
  let s := (s.queuesOf ctx).foldl (fun s (q, _) => s.disableQueue ctx q) s
  let gang := (s.ctx ctx).field 34 23 0
  let isGang := ((s.ctx ctx).word 34).getLsbD 63
  let s := { s with
    ops := s.ops.filter fun (_, o) => !mine o.block,
    blocks := s.blocks.mapVals fun b x => if mine b then { x with st := .retired, chans := [], queues := [], tiles := [] } else x,
    launches := s.launches.mapVals fun _ x => if x.ctx == ctx then { x with st := .finished } else x,
    units := s.units.filter fun (_, u) => !(u.blocks.any mine),
    queues := s.queues.filter fun (k, _) => k / 512 != ctx,
    tlb := s.tlb.filter fun t => t.ctx != ctx,
    gangs := if isGang then s.gangs.mapVals fun k x => if k == gang then { x with saved := none, aborting := false } else x else s.gangs,
    contexts := s.contexts.filter fun (k, _) => k != ctx }
  ((s.cores.map (·.1)).foldl State.fitWays s).dropWithdrawn

/-- CTX_DESTROY (R367, R369). -/
def execCtxDestroy (c : Cmd) (s : State) : Out :=
  s.command c 1 fun s =>
    if 64 ≤ c.op 0 ∨ !s.hasCtx (c.op 0) then s.deny rsBadOperand else (s.teardown (c.op 0)).done

/-- CTX_SET (R352, R369): the handler table may change at any time, any other word only while the context holds no
block. -/
def execCtxSet (c : Cmd) (s : State) : Out :=
  s.command c 2 fun s =>
    let n := c.bits 0 5 0
    let w := c.bits 0 21 16
    if c.op 0 ≠ n + w * 2 ^ 16 ∨ !s.hasCtx n then s.deny rsBadOperand
    else
      let ws := (s.ctx n).desc.set w (BitVec.ofNat 64 (c.op 1))
      if !descriptorOk ws then s.deny rsBadOperand
      else if !(decide (5 ≤ w ∧ w ≤ 20)) && s.holdsBlock n then s.deny rsBusy
      else ((s.modCtx n fun x => { x with desc := ws }).retranslate).done

/-- CTX_REDUNDANT (R369, R383). -/
def execCtxRedundant (c : Cmd) (s : State) : Out :=
  s.command c 1 fun s =>
    let n := c.bits 0 5 0
    if c.op 0 ≠ n + c.bits 0 8 8 * 2 ^ 8 ∨ !s.hasCtx n then s.deny rsBadOperand
    else if s.holdsBlock n then s.deny rsBusy
    else (s.modCtx n fun x => { x with redundant := c.bits 0 8 8 == 1 }).done

/-- FUNCTION_LEVEL_RESET (R367): a virtual function's context is torn down, or for the physical function every one. -/
def execFunctionLevelReset (fn : Nat) (s : State) : Out :=
  if fn = 0 then .next ((s.contexts.map (·.1)).foldl (fun s c => s.teardown c) s)
  else match s.ctxOfFn fn with
    | some c => .next (s.teardown c)
    | none => .next s

/-! ### Queues (R353, R354, R360) -/

/-- QUEUE_CTL with an action (R369): the queue of an existing context, as its control block has it while it is unmapped (R353). -/
def State.queueCtl (s : State) (c : Cmd) (action : Nat) (k : State → Nat → Nat → State) : Out :=
  s.command c 1 fun s =>
    let n := c.bits 0 5 0
    let q := c.bits 0 24 16
    if c.op 0 ≠ n + q * 2 ^ 16 + action * 2 ^ 60 ∨ !s.hasCtx n ∨ (s.ctx n).field 36 9 0 ≤ q then s.deny rsBadOperand
    else (k (s.readQcb n q) n q).done

/-- QUEUE_CTL enable: the queue's control block is read, and EN set (R353). -/
def execQueueEnable (c : Cmd) (s : State) : Out :=
  s.queueCtl c 0 fun s n q =>
    if (s.queue n q).slot.isSome then s
    else
      let at_ := (s.ctx n).field 35 51 0 + 64 * q
      let w := (s.homeWord (at_ + 8)).toNat
      (s.agentWrite (at_ + 8) (leMBytes 8 (w - nbits w 32 32 * 2 ^ 32 + 2 ^ 32))).readQcb n q

/-- QUEUE_CTL disable and unmap (R360). -/
def execQueueDisable (c : Cmd) (s : State) : Out := s.queueCtl c 1 fun s n q => s.disableQueue n q

/-- QUEUE_CTL clear ERR (R354). -/
def execQueueClearErr (c : Cmd) (s : State) : Out :=
  s.queueCtl c 2 fun s n q => s.setQueue n q { s.queue n q with err := false }

/-! ### Memory (R159, R161) -/

/-- Whether accesses of a context to virtual addresses have been translated and not yet performed: stores in a region's
buffer, lanes of an atomic, and an engine's writes that no join has brought into a view (R159). -/
def State.pendingIn (s : State) (ctx : Nat) (inside : Nat → Bool) : Bool :=
  (s.groups.any fun (_, x) => !x.retired && s.ctxOfBlock x.block == ctx
    && (x.region.buffer.any (fun b => b.line.space == 0 && inside b.w.va.toNat)
      || match x.wait with | .lanes a => a.todo.any fun y => !nearKey y.2.2 && inside y.2.1 | _ => false))
  || s.ops.any fun (_, o) => s.ctxOfBlock o.block == ctx && (s.block o.block).st != .retired
    && o.wrote.any fun w => !nearKey w.loc && inside w.va.toNat

/-- TLB_INVAL (R159, R369): no translation buffer keeps an entry that meets the range, and every access that used one has performed,
anywhere in the entry's page: gated stores enter the view, and the command waits for open regions, atomics and joins. -/
def execTlbInval (c : Cmd) (s : State) : Out :=
  let n := c.bits 0 5 0
  let whole := c.bits 0 8 8 == 1
  let hit (t : TlbEnt) : Bool := t.ctx == n && (whole || meets t.base t.size (c.op 1) (c.op 2))
  let inside (va : Nat) : Bool :=
    whole || (decide (c.op 1 ≤ va) && decide (va < c.op 1 + c.op 2))
      || s.tlb.any fun t => hit t && decide (t.base ≤ va) && decide (va < t.base + t.size)
  let bad := c.nopw ≠ 3 ∨ c.ops.length ≠ 3 ∨ c.nonce ≠ 0 ∨ c.op 0 ≠ n + c.bits 0 8 8 * 2 ^ 8 ∨ (!whole ∧ c.op 1 % 65536 ≠ 0)
  if s.taken c && !decide bad && s.pendingIn n inside then .next (s.later c none)
  else s.command c 3 fun s =>
    if bad then s.deny rsBadOperand
    else
      let s := (s.groups.filter fun (_, x) => s.ctxOfBlock x.block == n && x.gated.any fun w => inside w.va.toNat).foldl
        (fun (s : State) (g, _) => s.flush g) s
      State.done { s with tlb := s.tlb.filter fun t => !hit t }

/-- The 256-byte lines from `a` on, `n` bytes in all, of which a byte is not zero, poisoned, or in a published store. -/
def State.usedLines (s : State) (a n : Nat) : List Nat :=
  let inside (k : Nat) : Bool := decide (a ≤ k) && decide (k < a + n)
  let at_ := s.mem.map (·.1) ++ s.poison.map (·.1) ++ s.hist.flatMap fun h => [h.loc, h.loc + h.bytes.length - 1]
  ((at_.filter inside).foldl (fun (acc : Tab Unit) k => acc.put (k / 256) ()) []).map fun (k, _) => 256 * k

/-- FG_SET (R160, R161, R369): a new entry byte drops the group's cached lines, and the group reads zero afterwards, by zeros that the
Mallet cores publish: until its next acquire a core may read the copies of its L1 or L2 from before. NL is not set while a page maps the
group. The lines of a named domain whose pool has frames there keep their contents (R180; DESIGN CHOICE, log entry 94). -/
def execFgSet (c : Cmd) (s : State) : Out :=
  s.command c 1 fun s =>
    let g := c.bits 0 14 0
    let e := c.bits 0 23 16
    let was := (Tab.get 0 s.frames g).toNat
    let a := g * 0x1000000
    if c.op 0 ≠ g + e * 2 ^ 16 ∨ 8 ≤ e then s.deny rsBadOperand
    else if was = e then s.done
    else if e / 4 = 1 && was / 4 = 0 && s.pageMaps a 0x1000000 false then s.deny rsBusy
    else
      let inside (k : Nat) : Bool := decide (a ≤ k) && decide (k < a + 0x1000000)
      let s := (s.usedLines a 0x1000000).foldl (fun s k => s.agentWrite k (leMBytes 256 0)) s
      let s := { s with mem := s.mem.filter fun (k, _) => !inside k, poison := s.poison.filter fun (k, _) => !inside k }
      State.done { s with frames := if e = 0 then s.frames.filter (fun (k, _) => k != g) else s.frames.put g (BitVec.ofNat 8 e) }

/-! ### Named and translation domains (R271, R328) -/

/-- A list of 8-byte addresses at a physical address. -/
def State.addrList (s : State) (a n : Nat) : List Nat := (List.range n).map fun i => (s.homeWord (a + 8 * i)).toNat

/-- Frames are multiples of 2 MiB of local HBM4, root pages of 64 KiB (R271). -/
def localAligned (k : Nat) (xs : List Nat) : Bool := xs.all fun x => x % k == 0 && decide (x < 0x8000000000)

/-- Whether frames and root pages can go to a domain: aligned, each its own, in no domain yet, and mapped by no ordinary page (R271).
Where they cannot, the commands answer BAD_OPERAND (DESIGN CHOICE, log entry 92). -/
def State.domainParts (s : State) (frames roots : List Nat) : Bool :=
  let parts := frames.map (fun f => (f, 0x200000)) ++ roots.map fun r => (r, 65536)
  let held := s.domains.flatMap fun (_, d) => d.frames.map (fun f => (f, 0x200000)) ++ d.roots.map fun r => (r, 65536)
  let apart (x y : Nat × Nat) : Bool := !meets x.1 x.2 y.1 y.2
  localAligned 0x200000 frames && localAligned 65536 roots
    && parts.zipIdx.all fun (x, i) => (parts.drop (i + 1)).all (apart x) && held.all (apart x) && !s.pageMaps x.1 x.2 true

/-- DOMAIN_CREATE (R271, R369): the pool has a frame on every stack, else BAD_OPERAND, which is also answered before BUSY (DESIGN CHOICE,
log entry 92). -/
def execDomainCreate (c : Cmd) (s : State) : Out :=
  s.command c 9 fun s =>
    let d := c.bits 0 11 0
    let frames := s.addrList (c.op 5) (c.op 6)
    let roots := s.addrList (c.op 7) (c.op 8)
    let everyStack := (List.range 8).all fun k => frames.any fun f => decide (0 < s.frameLines f k)
    if c.op 0 ≠ d + c.bits 0 16 16 * 2 ^ 16 ∨ !everyStack ∨ !s.domainParts frames roots then s.deny rsBadOperand
    else if (s.domains.find? d).isSome then s.deny rsBusy
    else
      let x : Domain := { key := (List.range 4).flatMap fun i => leBytes 8 (c.op (1 + i)), verify := c.bits 0 16 16 == 1,
                          frames := frames, roots := roots }
      let s := (s.notePhys (c.op 5) (8 * c.op 6)).notePhys (c.op 7) (8 * c.op 8)
      State.done { s with domains := s.domains.put d x }

/-- DOMAIN_GROW (R271, R369). -/
def execDomainGrow (c : Cmd) (s : State) : Out :=
  s.command c 5 fun s =>
    let d := c.op 0
    let frames := s.addrList (c.op 1) (c.op 2)
    let roots := s.addrList (c.op 3) (c.op 4)
    if (s.domains.find? d).isNone ∨ !s.domainParts frames roots then s.deny rsBadOperand
    else
      let s := (s.notePhys (c.op 1) (8 * c.op 2)).notePhys (c.op 3) (8 * c.op 4)
      (s.modDomain d fun x => { x with frames := x.frames ++ frames, roots := x.roots ++ roots }).done

/-- DOMAIN_DESTROY (R271, R369): every line and root slot goes, whatever the counts. Pins on its lines that a context still logs, from
before it took the domain out of its regions, name nothing now and leave the log (DESIGN CHOICE, log entry 92). -/
def execDomainDestroy (c : Cmd) (s : State) : Out :=
  s.command c 1 fun s =>
    let d := c.op 0
    if (s.domains.find? d).isNone then s.deny rsBadOperand
    else if s.contexts.any fun (_, x) => x.binds d then s.deny rsBusy
    else State.done { s with
      domains := s.domains.filter fun (k, _) => k != d,
      contexts := s.contexts.mapVals fun _ x => { x with pins := x.pins.filter fun p => p.dom != d } }

/-- TRDOM_SET (R328 to R330, R369): a translation domain has VERIFY = 1. Below the new threshold idle translations go, and a new
translator version makes new keys. -/
def execTrdomSet (c : Cmd) (s : State) : Out :=
  s.command c 7 fun s =>
    let d := c.op 0
    if (s.domains.find? d).isNone ∨ !(s.domain d).verify ∨ 2 ^ 32 ≤ c.op 6 then s.deny rsBadOperand
    else
      let peers := (List.range (c.op 5)).map fun i => mVal (s.homeBytes (c.op 4 + 2 * i) 2)
      let s := s.notePhys (c.op 4) (2 * c.op 5)
      let s := s.modDomain d fun x => { x with freeLines := c.op 1, reopt := c.op 2, peerTimeout := c.op 3, peers := peers,
                                               version := c.op 6 }
      (s.makeRoom d none s.trans.length).retranslate.done

/-! ### Gang slices (R373, R376) -/

/-- SLICE_TABLE (R369, R373). -/
def execSliceTable (c : Cmd) (s : State) : Out :=
  s.command c 3 fun s =>
    let g := c.op 0
    let n := c.op 2
    let w (i : Nat) : Nat := (s.homeWord (c.op 1 + 8 * i)).toNat
    if 2 ^ 24 ≤ g ∨ n < 1 ∨ 4096 < n ∨ (List.range n).any fun i => 2 ^ 32 ≤ w (2 * i + 1) then s.deny rsBadOperand
    else
      let xs : List Slice := (List.range n).map fun i =>
        { num := BitVec.ofNat 32 (w (2 * i)), len := w (2 * i) / 2 ^ 32, gto := w (2 * i + 1) }
      let s := s.notePhys (c.op 1) (16 * n)
      State.done { s with gangs := s.gangs.put g { Tab.get {} s.gangs g with slices := xs } }

/-! ### Keys, counters and firmware (R370, R390, R391, R395) -/

/-- Submit a signed command (R370): signatures, nonce, operands, in this order. OK raises the stored nonce. -/
def State.signedCommand (s : State) (c : Cmd) (code n : Nat) (k : State → Reply) : Out :=
  if !s.taken c then .next s
  else if !sigOk s.keys (·.admin) c.sig (c.signed code) then .next (s.answer c rsBadSignature [])
  else if c.nonce ≤ s.nonce then .next (s.answer c rsNonceUsed [])
  else if c.nopw ≠ n ∨ c.ops.length ≠ n then .next (s.answer c rsBadOperand [])
  else match k s with
    | (st, ws, s') => .next ((if st = rsOk then { s' with nonce := c.nonce } else s).answer c st ws)

/-- Bytes at a physical address. -/
def State.physBytes (s : State) (a n : Nat) : List Byte := (s.homeBytes a n).map (·.val)

/-- KEY_ADD (R369, R390). -/
def execKeyAdd (c : Cmd) (s : State) : Out :=
  s.signedCommand c 0x40 3 fun s =>
    let i := c.bits 0 4 0
    let ml := c.bits 0 8 8 == 1
    if c.op 0 ≠ i + c.bits 0 8 8 * 2 ^ 8 + c.bits 0 18 16 * 2 ^ 16 ∨ c.op 2 ≠ (if ml then 1952 else 32) then
      s.deny rsBadOperand
    else if (s.keys.find? i).isSome then s.deny rsBusy
    else
      let key := s.physBytes (c.op 1) (c.op 2)
      let e : KeyEnt := { ml := ml, key := key, ident := (Blake3.hash key).take 8, kernel := c.bits 0 16 16 == 1,
                          firmware := c.bits 0 17 17 == 1, admin := c.bits 0 18 18 == 1, fused := false }
      let s := s.notePhys (c.op 1) (c.op 2)
      State.done { s with keys := s.keys.put i e }

/-- KEY_REMOVE (R369, R390). -/
def execKeyRemove (c : Cmd) (s : State) : Out :=
  s.signedCommand c 0x41 1 fun s =>
    match s.keys.find? (c.op 0) with
    | none => s.deny rsBadOperand
    | some e => if e.fused then s.deny rsRefused else State.done { s with keys := s.keys.filter fun (k, _) => k != c.op 0 }

/-- COUNTER_SET (R369, R391): a counter only rises. -/
def execCounterSet (c : Cmd) (s : State) : Out :=
  s.signedCommand c 0x42 1 fun s =>
    let fw := c.bits 0 0 0 == 1
    let v := c.bits 0 15 8
    if c.op 0 ≠ c.bits 0 0 0 + v * 2 ^ 8 ∨ (if fw then 64 else 128) < v then s.deny rsBadOperand
    else if v ≤ (if fw then s.firmwareCounter else s.kernelCounter) then s.deny rsRefused
    else State.done (if fw then { s with firmwareCounter := v } else State.withdraw { s with kernelCounter := v })

/-- FW_LOAD (R369, R391, R395): an image with both signatures by FIRMWARE keys goes to the idle slot, which takes over (DEDUCED, log
entry 43). -/
def execFwLoad (c : Cmd) (s : State) : Out :=
  s.command c 2 fun s =>
    let (blk, msg, ver) := Config.firmwareParts (s.physBytes (c.op 0) (c.op 1))
    if !sigOk s.keys (·.firmware) blk msg then s.deny rsBadSignature
    else if ver < s.firmwareCounter then s.deny rsRefused
    else
      let vs := if s.fwSlot then (ver, s.fwVersions.2) else (s.fwVersions.1, ver)
      let s := s.notePhys (c.op 0) (c.op 1)
      State.done { s with fwSlot := !s.fwSlot, fwVersions := vs }

/-! ### Debuggers and side tables (R326, R327, R331, R350) -/

/-- DBG_ATTACH (R369). -/
def execDbgAttach (c : Cmd) (s : State) : Out :=
  s.command c 1 fun s =>
    if 64 ≤ c.op 0 ∨ !s.hasCtx (c.op 0) then s.deny rsBadOperand
    else ((s.modCtx (c.op 0) fun x => { x with debugger := true }).retranslate).done

/-- DBG_DETACH (R350, R369): halted groups of the context resume. -/
def execDbgDetach (c : Cmd) (s : State) : Out :=
  s.command c 1 fun s =>
    let n := c.op 0
    if 64 ≤ n ∨ !s.hasCtx n then s.deny rsBadOperand
    else
      let s := s.modCtx n fun x => { x with debugger := false }
      let go (x : Group) : Group :=
        if x.wait == .halt && s.ctxOfBlock x.block == n then { x with wait := .none } else x
      (State.retranslate { s with groups := s.groups.mapVals fun _ x => go x }).done

/-- DBG_RESUME (R350, R369). -/
def execDbgResume (c : Cmd) (s : State) : Out :=
  s.command c 2 fun s =>
    let n := c.op 0
    let lin := c.bits 1 31 0
    let gid := c.bits 1 39 32
    if 64 ≤ n ∨ !s.hasCtx n ∨ c.op 1 ≠ lin + gid * 2 ^ 32 then s.deny rsBadOperand
    else match List.find? (fun (_, x) => x.wait == .halt && x.grpid == gid && !x.retired && (s.block x.block).lin == lin
        && s.ctxOfBlock x.block == n) s.groups with
      | none => s.deny rsBusy
      | some (g, x) => (s.setGroup g { x with wait := .none }).done

/-- SIDE_READ (R326, R369). -/
def execSideRead (c : Cmd) (s : State) : Out :=
  s.command c 2 fun s =>
    if 64 ≤ c.op 0 ∨ !s.hasCtx (c.op 0) ∨ 2 ^ 32 ≤ c.op 1 then s.deny rsBadOperand
    else match s.sideRecord (c.op 0) (c.op 1) with
      | none => s.deny rsBadOperand
      | some ws => (rsOk, ws, s)

/-! ### Events, budget and registers -/

/-- EVENT_ROUTE (R366, R369). -/
def execEventRoute (c : Cmd) (s : State) : Out :=
  s.command c 1 fun s =>
    let e := c.bits 0 1 0
    let v := c.bits 0 14 8
    if c.op 0 ≠ e + v * 2 ^ 8 then s.deny rsBadOperand else State.done { s with routes := s.routes.put e v }

/-- Report a management event with the numbers of what it concerns, and signal its vector if one is set (R366). Events: 0 management, 1 gang slice timeout, 2 die
without a working management core, 3 boot stop. -/
def State.report (s : State) (event : Nat) (what : String) (which : List Nat := []) : State :=
  let s := { s with reports := (what, which) :: s.reports }
  match s.routes.find? event with
  | some v => s.signal 0 v
  | none => s

/-- A DOORBELL submission whose CODE is reserved is answered with BAD_CODE (R369). -/
def reservedCode (code : Nat) : Bool :=
  !([0x01, 0x02, 0x03, 0x04, 0x05, 0x10, 0x11, 0x20, 0x21, 0x22, 0x23, 0x30, 0x31, 0x40, 0x41, 0x42, 0x43, 0x50, 0x51, 0x52,
    0x53, 0x60, 0x61].contains code)

/-- RESERVED_COMMAND (R369). -/
def execReservedCommand (code : Nat) (c : Cmd) (s : State) : Out :=
  if s.taken c && reservedCode code then .next (s.answer c rsBadCode []) else .next s

/-- PBUDGET_WRITE (R397): a write with one of bits 63:48 set is ignored; LIMIT is clamped, DRAW and the reserved bits are not
written. -/
def execPbudgetWrite (v : BitVec 64) (s : State) : Out :=
  if nbits v.toNat 63 48 ≠ 0 then .next s
  else
    let limit := max 800 (min (if Config.isModule then 2200 else 1950) (nbits v.toNat 15 0))
    .next { s with pbudget := (s.pbudget &&& 0x0000FFFF00000000) ||| BitVec.ofNat 64 limit }

/-- FLBO as a write leaves it: its reserved bits stay 0 (R7), and a field below its range takes the least value there (DESIGN CHOICE,
log entry 27). -/
def flboOf (v : BitVec 64) : BitVec 64 :=
  let n := v.toNat
  BitVec.ofNat 64 (max 1 (nbits n 63 32) * 2 ^ 32 + max 1 (nbits n 27 20) * 2 ^ 20 + nbits n 19 16 * 2 ^ 16 + max 1 (nbits n 15 0))

/-- Change an MSI-X vector of a function. -/
def State.modMsix (s : State) (fn vec : Nat) (f : Msix → Msix) : State :=
  { s with msix := s.msix.put (128 * fn + vec) (f (Tab.get {} s.msix (128 * fn + vec))) }

/-- A vector masked or unmasked: an interrupt held by the mask is sent once it goes (R366). -/
def Msix.mask (x : Msix) (on : Bool) : Msix :=
  if on || !x.pending then { x with masked := on } else { x with masked := false, pending := false, sent := x.sent + 1 }

/-- A write to a word of a function's MSI-X table (R365): address, or data and mask bit. -/
def State.writeMsix (s : State) (fn at_ : Nat) (v : BitVec 64) : State :=
  let vec := (at_ - 0x1000) / 16
  if 64 < fn ∨ at_ < 0x1000 ∨ 0x1800 ≤ at_ ∨ (fn ≠ 0 ∧ 64 ≤ vec) ∨ at_ % 8 ≠ 0 then s
  else if at_ % 16 = 0 then s.modMsix fn vec fun x => { x with addr := v &&& 0xFFFFFFFFFFFFFFFC }
  else s.modMsix fn vec fun x => { x with data := v.setWidth 32 }.mask (v.getLsbD 32)

/-- REGISTER_WRITE (R206, R232, R365, R366, R368): IRQCTL of a mailbox or FLBO of a port, by their BAR2 offset; a word of a function's
MSI-X table, at 0x1000_0000 + 0x1_0000 × function + its BAR0 offset; the AtomicOp request enable of a function, bit 6 at 0x2000_0000
+ 0x1000 × function + 0x28 (PRESUMED, log entry 73). Reserved bits read 0 and ignore the write (R7). Any other offset is read-only
or belongs to another row. -/
def execRegisterWrite (offset : Nat) (v : BitVec 64) (s : State) : Out :=
  if offset < 0x100000 then
    if offset % 0x10000 = 8 then
      let i := offset / 0x10000
      .next { s with mailboxes := s.mailboxes.put i { s.mailbox i with irqctl := v &&& 0xFF } }
    else .next s
  else if offset < 0x100000 + 64 * 24 ∧ offset % 64 = 0 then
    let i := (offset - 0x100000) / 64
    .next { s with ports := s.ports.put i { Tab.get {} s.ports i with flbo := flboOf v } }
  else if 0x10000000 ≤ offset ∧ offset < 0x20000000 then
    .next (s.writeMsix ((offset - 0x10000000) / 0x10000) (offset % 0x10000) v)
  else if 0x20000000 ≤ offset ∧ offset ≤ 0x20000028 + 0x1000 * 64 ∧ offset % 0x1000 = 0x28 then
    let fn := (offset - 0x20000000) / 0x1000
    let others := s.atomicOps.filter (· != fn)
    .next { s with atomicOps := if v.getLsbD 6 then fn :: others else others }
  else .next s

/-- MSI_X_UNMASK (R366): a held interrupt is sent. -/
def execMsiXUnmask (fn vec : Nat) (s : State) : Out := .next (s.modMsix fn vec fun x => x.mask false)

/-- SR_IOV_ENABLE (R352). -/
def execSrIovEnable (on : Bool) (s : State) : Out := .next { s with sriov := on }

/-- JOURNAL_CLEAR (R394): the primary of a step is tried on the next boot. -/
def execJournalClear (step : Nat) (s : State) : Out := .next { s with journal := s.journal.filter fun j => j.step != step }

end Sys2Proof.Machine
end

