-- ==== Sys2Proof/Machine/Fabric.lean ====
section
/-! DEFINITION. Faine Link: receiving packets in sequence, acknowledgements and back-off, the switch's merge table, and the
messages of gang slices (R226 to R232, R371 to R376). -/

namespace Sys2Proof

/-- Whether a packet passes its check (R371): CRC and zero fields good, VL and TYPE not reserved, LEN in range. -/
def Packet.passes (p : Packet) : Bool :=
  p.ok && decide (p.vl ≤ 5) && decide (1 ≤ p.type ∧ p.type ≤ 11) && decide (p.len ≤ 4096) && p.len == p.payload.length

end Sys2Proof

namespace Sys2Proof.Machine

/-! ### Ports (R232, R371) -/

/-- LIMIT of FLBO. -/
def Port.limit (p : Port) : Nat := nbits p.flbo.toNat 27 20

/-- The package that a virtual lane is trying to reach: that of its oldest packet. -/
def State.vlPeer (s : State) (i v : Nat) : Nat :=
  match (s.vl i v).unacked with
  | k :: _ => k.dst
  | [] => s.pkg

/-- Send a packet again by the route that is left (R372): the operations that wait for its acknowledgement wait for the new one. -/
def State.reroute (s : State) (i : Nat) (p : Packet) : State :=
  let (k, s) := s.sendPacket p.dst p.vl p.type p.job p.payload p.bad
  { s with ops := s.ops.mapVals fun _ o => { o with sent := o.sent.map fun x =>
      if x.1 == i && x.2.1 == p.vl && x.2.2.1 == p.seq then (k.1, k.2.1, k.2.2, x.2.2.2) else x } }

/-- The package that an operation sends to. -/
def OpKind.fabric : OpKind → Option Nat
  | .fsend _ fab _ _ | .spred _ fab _ _ => some (fabPkg fab.toNat)
  | .qsend _ _ _ fab => some (fabPkg fab.toNat)
  | _ => none

/-- Every operation that waits on delivery to a package fails with FABRIC_UNREACHABLE (R232). -/
def State.failSends (s : State) (dst : Nat) : State :=
  s.ops.foldl (fun s (i, o) =>
    match o.sent.head?.map (·.2.2.2) <|> o.pairs.head? with
    | some va =>
      if o.kind.fabric == some dst then
        (s.failOp i fcFabricUnreachable va).modOp i fun o => { o with sent := [], pairs := [] }
      else s
    | none => s) s

/-- Declare a package unreachable through a port (R232, R372): its packets there take another route where one is left, and else the
package is unreachable. -/
def State.loseRoute (s : State) (i dst : Nat) : State :=
  let p := s.port i
  let ks := p.vls.flatMap fun (_, l) => l.unacked.filter fun k => k.dst == dst
  let s := s.setPort i { p with
    lost := if p.lost.contains dst then p.lost else dst :: p.lost
    vls := p.vls.mapVals fun _ l => { l with unacked := l.unacked.filter fun k => k.dst != dst, backoff := false, counted := 0 } }
  if (s.pathTo dst).isSome then ks.foldl (fun s k => s.reroute i k) s
  else
    ({ s with unreachable := if s.unreachable.contains dst then s.unreachable else dst :: s.unreachable }).failSends dst

/-- The packages to which operations wait for delivery by a port (R232): their packets went that way, and are not acknowledged, or pairs of
theirs are not (R229). -/
def State.waitingVia (s : State) (i : Nat) : List Nat :=
  s.ops.filterMap fun (_, o) =>
    if o.sent.isEmpty && o.pairs.isEmpty then none
    else o.kind.fabric.bind fun d => if s.portOf d == i then some d else none

/-- Declare the peer of a port unreachable (R232): the package that the lane tries to reach, every other that packets of the
port wait to be delivered to, and every one that operations wait on through it. -/
def State.losePeer (s : State) (i dst : Nat) : State :=
  let dsts := (s.port i).vls.foldl (fun acc (_, l) =>
    l.unacked.foldl (fun acc k => if acc.contains k.dst then acc else acc ++ [k.dst]) acc) [dst]
  let dsts := dsts ++ (s.waitingVia i).eraseDups.filter fun d => !dsts.contains d
  dsts.foldl (fun s d => s.loseRoute i d) s

/-- ACKNOWLEDGEMENT_RECEIVE (R232): it frees every packet up to its number. -/
def execAcknowledgementReceive (i v : Nat) (seq : BitVec 32) (s : State) : Out := .next (s.ackUpTo i v seq)

/-- NEGATIVE_ACKNOWLEDGEMENT (R232): the sender backs off, or declares the peer unreachable when LIMIT counted ones in a row
have arrived without progress. Reason 3 does not count. -/
def execNegativeAcknowledgement (i v : Nat) (seq : BitVec 32) (reason : Nat) (s : State) : Out :=
  let l := s.vl i v
  if !(l.unacked.any fun k => k.seq == seq) then .next s
  else
    let same := l.nakSeq == seq
    let counted := l.counted + if reason = 3 then 0 else 1
    let s := s.setVl i v { l with nakSeq := seq, naks := if same then l.naks + 1 else 1, counted := counted, backoff := true }
    .next (if (s.port i).limit ≤ counted then s.losePeer i (s.vlPeer i v) else s)

/-- REPLAY_BACKOFF_EXPIRY (R232): the packets from the named one on are sent again. -/
def execReplayBackoffExpiry (i v : Nat) (s : State) : Out := .next (s.setVl i v { s.vl i v with backoff := false })

/-- LINK_ACK_TIMEOUT (R232): no acknowledgement came for TIMEOUT. -/
def execLinkAckTimeout (i v : Nat) (s : State) : Out :=
  if (s.vl i v).unacked.isEmpty then .next s else .next (s.losePeer i (s.vlPeer i v))

/-- PORT_RETRAIN (R371): four lanes at 800 Gb/s. -/
def execPortRetrain (i : Nat) (s : State) : Out := .next (s.setPort i { s.port i with lanes := 4 })

/-! ### Gang messages (R374, R375) -/

def State.gang (s : State) (g : Nat) : Gang := Tab.get {} s.gangs g
def State.setGang (s : State) (g : Nat) (x : Gang) : State := { s with gangs := s.gangs.put g x }

/-- The contexts of a gang on this package. -/
def State.gangCtxs (s : State) (g : Nat) : List Nat :=
  (s.contexts.filter fun (_, c) => (c.word 34).getLsbD 63 && c.field 34 23 0 == g).map (·.1)

/-- Whether the gang's contexts have no saved unit left to restore. -/
def State.gangRestored (s : State) (g : Nat) : Bool :=
  !(s.blocks.any fun (b, x) => x.st == .saved && (s.gangCtxs g).contains (s.ctxOfBlock b))

/-- Send a gang message to every other member (R374): kind 0 READY, 1 RUNNING. -/
def State.tellGang (s : State) (g kind : Nat) (num : BitVec 32) : State :=
  let job := match s.gangCtxs g with | c :: _ => (s.ctx c).field 31 23 0 | [] => 0
  (Config.gangMembers g).foldl (fun s m =>
    (s.sendPacket m 5 0x0B job (leBytes 4 g ++ leBytes 4 num.toNat ++ leBytes 1 kind)).2) s

/-- Whether a message of a kind for a slice has come from every other member. -/
def allHeard (g : Nat) (xs : List (Nat × BitVec 32)) (num : BitVec 32) : Bool :=
  (Config.gangMembers g).all fun m => xs.contains (m, num)

/-- The tables and locations of the gang contexts' blocks, as a save area (R376). -/
def State.gangImage (s : State) (g : Nat) : SaveArea :=
  let mine (b : Nat) : Bool := (s.gangCtxs g).contains (s.ctxOfBlock b)
  let keys := (s.blocks.filter fun (b, _) => mine b).map fun (b, _) => scratchKey b
  { groups := s.groups.filter fun (_, x) => mine x.block,
    blocks := s.blocks.filter fun (b, _) => mine b,
    barriers := s.barriers.filter fun (_, b) => b.members.any fun m => mine (s.group m).block,
    ops := s.ops.filter fun (_, o) => mine o.block,
    units := s.units.filter fun (_, u) => u.blocks.any mine,
    launches := s.launches.filter fun (_, x) => (s.gangCtxs g).contains x.ctx,
    scratch := (s.mem.filter fun (k, _) => keys.any fun a => decide (a ≤ k ∧ k < a + 0x100000000)).map fun (k, v) =>
      (k, ⟨v, s.poison.has k⟩) }

/-- A gang's slice begins when READY has come from every other member (R374). -/
def State.gangBegins (s : State) (g : Nat) : Bool :=
  let x := s.gang g
  match x.cur with
  | some z => !x.aborting && x.sentReady && !x.begun && allHeard g x.ready z.num
  | none => false

/-- RUNNING is due: the slice has begun and the gang's contexts are restored (R374). -/
def State.gangRuns (s : State) (g : Nat) : Bool :=
  let x := s.gang g
  x.cur.isSome && x.begun && !x.sentRunning && s.gangRestored g

/-- Whether a gang's next slice can be taken up: a slice has ended, and the outgoing gang contexts are pre-empted (R374). -/
def State.gangDue (s : State) (g : Nat) : Bool :=
  (s.gang g).due && !(s.gang g).aborting && !(s.blocks.any fun (b, x) => x.st == .resident && ((s.ctx (s.ctxOfBlock b)).word 34).getLsbD 63)

/-- Take up the next slice of a gang's table, and send READY for it (R374). -/
def State.takeSlice (s : State) (g : Nat) : State :=
  let x := s.gang g
  match x.slices with
  | [] => s.setGang g { x with due := false }
  | z :: rest =>
    (s.setGang g { x with slices := rest, cur := some z, due := false, begun := false, sentReady := true, sentRunning := false,
                          barrierDone := false }).tellGang g 0 z.num

/-- Whether a launch is over but for its completion signal (R359): its STATUS and DONE are written. -/
def Launch.over (x : Launch) : Bool := x.st == .finished || x.st == .signalling

/-- A launch of a gang context after its slice was aborted (R376): one that had begun to place its blocks is as the save area has it;
one that began in the slice has its blocks still to place; and one that is over stays so (DEDUCED, log entry 74). -/
def Launch.rewound (x : Launch) (old : Option Launch) : Launch :=
  if x.over then x
  else match old.filter (·.began) with
    | some y => y
    | none =>
      if x.began then { x with st := .placing, began := false, placed := 0, clusters := [], corePos := [], rels := none,
                               aborted := false, status := 0 }
      else x

/-- Put a save area back in place of the gang contexts' tables (R376), but for what belongs to launches that are over. -/
def State.restoreImage (s : State) (g : Nat) (a : SaveArea) : State :=
  let mine (b : Nat) : Bool := (s.gangCtxs g).contains (s.ctxOfBlock b) && !(s.launch (s.block b).launch).over
  let kept (b : Nat) : Bool := match a.blocks.find? b with | some x => !(s.launch x.launch).over | none => false
  let bs := (s.blocks.filter fun (b, _) => mine b).map (·.1)
  let merge {α : Type} (keep : Tab α) (old : Tab α) : Tab α := old.foldl (fun t (k, v) => t.put k v) keep
  let s := bs.foldl (fun s b => s.zeroRange (scratchKey b) 0x100000000) s
  let gs := s.groups.filter fun (_, x) => !mine x.block
  let os := s.ops.filter fun (_, o) => !mine o.block
  let rs := s.barriers.filter fun (_, b) => !(b.members.any fun m => mine (s.group m).block)
  let us := s.units.filter fun (_, u) => !(u.blocks.any mine)
  let ks := s.cores.mapVals fun _ k => { k with
    stall := k.stall.filter fun i => !mine (s.group i).block, pool := k.pool.filter fun (_, i) => !mine (s.group i).block,
    arrayQ := k.arrayQ.filter fun o => !mine (s.op o).block }
  let member (m : Nat) : Bool := match a.groups.find? m with | some x => kept x.block | none => false
  let ls := s.launches.mapVals fun l x =>
    if (s.gangCtxs g).contains x.ctx then x.rewound (a.launches.find? l) else x
  let s := { s with
    groups := merge gs (a.groups.filter fun (_, x) => kept x.block), ops := merge os (a.ops.filter fun (_, o) => kept o.block),
    barriers := merge rs (a.barriers.filter fun (_, b) => b.members.any member),
    units := merge us (a.units.filter fun (_, u) => u.blocks.any kept),
    blocks := merge (s.blocks.filter fun (b, _) => !mine b) (a.blocks.filter fun (b, _) => kept b),
    launches := ls, cores := ks }
  let s := (a.scratch.filter fun (k, _) => kept (k / 0x10000000000000 - 1)).foldl (fun s (k, v) => s.homeWrite k [v]) s
  (s.cores.map (·.1)).foldl State.fitWays s

/-- Whether an aborted slice's contexts have stopped: nothing of them is resident, and their operations in flight have finished (R340,
R376). -/
def State.gangStopped (s : State) (g : Nat) : Bool :=
  let mine (b : Nat) : Bool := (s.gangCtxs g).contains (s.ctxOfBlock b)
  (s.gang g).aborting && !(s.blocks.any fun (b, x) => x.st == .resident && mine b)
    && !(s.ops.any fun (_, o) => o.st == .started && mine o.block)

/-- The end of an aborted slice (R376): the copies made in it stay made, joined or not; what was saved of its contexts is discarded, and
the save area of the previous slice stands again. -/
def State.endAbort (s : State) (g : Nat) : State :=
  let mine (b : Nat) : Bool := (s.gangCtxs g).contains (s.ctxOfBlock b)
  let s := s.ops.foldl (fun s (o, e) => if mine e.block then
    (e.wrote.filter fun w => !nearKey w.loc).foldl (fun s w => s.enterJoined o w) (s.modOp o fun e => { e with wrote := [] }) else s) s
  let s := (s.leadGroups ((s.blocks.filter fun (b, _) => mine b).map (·.1))).foldl
    (fun s (k, i) => (s.releaseOn k i 3 15 (s.coreAdds k)).2.2.completeAll k) s
  let s := match (s.gang g).saved with | some a => s.restoreImage g a | none => s
  s.setGang g { s.gang g with aborting := false }

/-- Move a gang's slice on (R374): it is taken up; it begins, with the save area that its contexts then have kept (R376), which is
that of the end of their previous slice; and RUNNING is sent once its contexts are restored. -/
def State.gangStep (s : State) (g : Nat) : State :=
  let s := if s.gangStopped g then s.endAbort g else s
  let s := if s.gangDue g then s.takeSlice g else s
  let s := if s.gangBegins g then s.setGang g { s.gang g with begun := true, saved := some (s.gangImage g) } else s
  if s.gangRuns g then
    (s.setGang g { s.gang g with sentRunning := true }).tellGang g 1 (((s.gang g).cur.map (·.num)).getD 0)
  else s

/-- GANG_READY (R374). -/
def execGangReady (g num member : Nat) (s : State) : Out :=
  let x := s.gang g
  .next ((s.setGang g { x with ready := (member, BitVec.ofNat 32 num) :: x.ready }).gangStep g)

/-- GANG_RUNNING (R375). -/
def execGangRunning (g num member : Nat) (s : State) : Out :=
  let x := s.gang g
  .next ((s.setGang g { x with running := (member, BitVec.ofNat 32 num) :: x.running }).gangStep g)

/-- A gang without a slice. -/
def Gang.idle (x : Gang) : Gang := { x with cur := none, due := false, begun := false, sentReady := false, sentRunning := false }

/-- SLICE_END (R374): the slice of whichever gang has one is over, and its contexts are to be pre-empted; when that is done the next
slice of the gang's table is taken up. -/
def execSliceEnd (g : Nat) (s : State) : Out :=
  let mine := s.blocks.filter fun (b, x) => x.st == .resident && ((s.ctx (s.ctxOfBlock b)).word 34).getLsbD 63
  let s := { s with gangs := s.gangs.mapVals fun _ x => x.idle }
  let s := mine.foldl (fun s (_, x) => s.request (clusterOf x.core) false) (s.setGang g { s.gang g with due := true })
  .next (s.gangStep g)

/-- GANG_SLICE_TIMEOUT (R376): GTO has passed without READY and RUNNING from every other member, and the host is told. -/
def execGangSliceTimeout (g : Nat) (s : State) : Out :=
  let x := s.gang g
  match x.cur with
  | none => .next s
  | some z =>
    if x.sentReady && !(allHeard g x.ready z.num && allHeard g x.running z.num) then .next (s.report 1 "gang slice timeout")
    else .next s

/-- A gang's table without the entry of a slice. -/
def State.dropSlice (s : State) (g num : Nat) : State :=
  let x := s.gang g
  if x.slices.any fun z => z.num.toNat == num then s.setGang g { x with slices := x.slices.filter fun z => z.num.toNat != num } else s

/-- What SLICE_ABORT makes of a slice (R376). A member that began it stops the gang context by a pre-emption (R340), after which what was
saved of it is discarded and the save area of the previous slice stands again. A member that has not begun the slice will not begin it. -/
def State.abortSlice (s : State) (g num : Nat) : State :=
  let s := s.dropSlice g num
  let x := s.gang g
  if x.aborting || (x.cur.map fun z => z.num.toNat) != some num then s
  else if x.begun && x.saved.isSome then
    let here := s.blocks.filter fun (b, y) => y.st == .resident && (s.gangCtxs g).contains (s.ctxOfBlock b)
    (here.foldl (fun s (_, y) => s.request (clusterOf y.core) false) (s.setGang g { x.idle with aborting := true })).gangStep g
  else s.setGang g x.idle

/-- SLICE_ABORT (R368, R369, R376): the command stays in hand until the gang context has stopped. -/
def execSliceAbort (c : Cmd) (s : State) : Out :=
  let g := c.op 0
  let bad := c.nopw ≠ 2 ∨ c.ops.length ≠ 2 ∨ c.nonce ≠ 0 ∨ 2 ^ 24 ≤ g ∨ 2 ^ 32 ≤ c.op 1
  let t := if (s.mailbox c.mbox).waiting == some (c, none) then s else s.abortSlice g (c.op 1)
  if s.taken c && !decide bad && (t.gang g).aborting then .next (t.later c none)
  else s.command c 2 fun s => if bad then s.deny rsBadOperand else t.done

/-! ### Receiving (R227, R228, R232, R371, R374) -/

/-- Whether a packet's job belongs to a gang context that is not running (R374). -/
def State.jobHeld (s : State) (job : Nat) : Bool :=
  s.contexts.any fun (_, c) => (c.word 34).getLsbD 63 && c.field 31 23 0 == job
    && !((s.gang (c.field 34 23 0)).begun && s.gangRestored (c.field 34 23 0))

/-- A number in a payload. -/
def payNat (p : List Byte) (off n : Nat) : Nat := leVal ((p.drop off).take n)

/-- The types of a remote atomic, by their place in R36. -/
def atomTyOf (n : Nat) : Ty := (([Ty.i32, .n32, .b32, .i64, .n64, .b64, .f32, .f16x2, .bf16x2] : List Ty)[n]?).getD .b32

/-- The operation of a remote atomic, by AOP (R204). -/
def aopOf (n : Nat) : AOp := (([AOp.add, .min, .max, .and, .or, .xor, .exch, .inc, .dec] : List AOp)[n]?).getD .exch

/-- Bytes of a payload from an offset on, their poison with them (R379). -/
def packetData (p : Packet) (off : Nat) : List MByte :=
  ((p.payload.drop off).zipIdx).map fun (b, i) => ⟨b, p.bad.contains (off + i)⟩

/-- A remote load, store or atomic of the load-store domain (R372), at its home in this package. A load answers what the package
that asks may see, which stores published at `.dom` or wider alone are; a store or atomic is published at `.dom` (R171). The
payloads are log entry 20's: address; then length, data, or operation, type, compare flag, operand and new value. -/
def State.remoteAccess (s : State) (p : Packet) : State :=
  let a := payNat p.payload 0 8 % 0x8000000000
  let far := farCore p.src
  let reply (s : State) (type : Nat) (bs : List MByte) : State :=
    (s.sendPacket p.src 1 type p.job (bs.map (·.val)) (bs.zipIdx.filterMap fun (b, i) => if b.poison then some i else none)).2
  if p.type = 1 then
    let n := min 128 (payNat p.payload 8 2)
    reply (s.readHome a n) 2 ((List.range n).map fun i => (s.pickByte far (a + i) s.nextSeq false).1)
  else if p.type = 3 then (s.touchHome a).outerWrite far 4 a (packetData p 8)
  else if p.type = 4 then
    let t := atomTyOf (payNat p.payload 9 1)
    let n := t.width / 8
    let old := mVal (s.homeBytes a n)
    let x := payNat p.payload 11 8 % 2 ^ t.width
    let new := if payNat p.payload 10 1 = 1 then (if old = x then payNat p.payload 19 8 else old)
      else aopValue (aopOf (payNat p.payload 8 1)) t old x
    if anyPoison (s.homeBytes a n) then reply s 5 (s.homeBytes a n)
    else reply ((s.touchHome a).outerWrite far 4 a (leMBytes n new)) 5 (leMBytes n old)
  else s

/-- The destination has taken, or a window has refused, some pairs of a contribution (R226, R229). -/
def State.confirm (s : State) (o count : Nat) (taken : Bool) : State :=
  match (s.op o).pairs with
  | [] => s
  | va :: _ =>
    let s := s.modOp o fun e => { e with pairs := e.pairs.drop count }
    if taken then s else s.failOp o fcPageProtection va

/-- The destination acknowledges each contribution of a sum to its source (R229). -/
def State.acknowledge (s : State) (job : Nat) (taken : Bool) (cs : List (Nat × Nat × Nat)) : State :=
  cs.foldl (fun s (src, tag, n) =>
    if src = s.pkg then s.confirm tag n taken
    else (s.sendPacket src 2 0x09 job (leBytes 4 tag ++ leBytes 4 n ++ leBytes 1 (if taken then 1 else 0))).2) s

/-- The contributions that a payload lists from an offset on. -/
def payContribs (p : List Byte) (off : Nat) : List (Nat × Nat × Nat) :=
  (List.range ((p.length - off) / 10)).map fun i =>
    (payNat p (off + 10 * i) 2, payNat p (off + 10 * i + 2) 4, payNat p (off + 10 * i + 6) 4)

/-- What an accepted packet does. -/
def State.acceptPacket (s : State) (p : Packet) : State :=
  let fab := payNat p.payload 0 8
  if p.type = 6 then
    let (m, s) := s.packetRel
    (s.deliverFsend p.job (fabWin fab) (fabOff fab) (packetData p 8) [m]).2
  else if p.type = 7 ∨ p.type = 8 then
    let sum := sext (payNat p.payload 16 16) 128
    let (m, s) := s.packetRel
    let (ok, s) := s.deliverSpred p.job (fabWin fab) (payNat p.payload 8 4) (BitVec.ofNat 16 (payNat p.payload 12 2)) sum
      (payNat p.payload 14 2) [m]
    s.acknowledge p.job ok (payContribs p.payload 32)
  else if p.type = 9 then s.confirm (payNat p.payload 0 4) (payNat p.payload 4 4) (payNat p.payload 8 1 == 1)
  else if p.type = 11 then
    let g := payNat p.payload 0 4
    let num := BitVec.ofNat 32 (payNat p.payload 4 4)
    let x := s.gang g
    (s.setGang g (if payNat p.payload 8 1 = 0 then { x with ready := (p.src, num) :: x.ready }
      else { x with running := (p.src, num) :: x.running })).gangStep g
  else s.remoteAccess p

/-- PACKET_RECEIVE (R232, R371, R374): a port accepts packets only in sequence, acknowledges them cumulatively, and answers
the first that it cannot accept with a reason; later packets are dropped until that one comes again. Whether the buffer is
full is a free value (DESIGN CHOICE, log entry 28). -/
def execPacketReceive (i : Nat) (p : Packet) (s : State) : Out :=
  let l := s.vl i p.vl
  let nak (s : State) (reason : Nat) : State := s.setVl i p.vl { l with answers := l.answers ++ [(true, l.rx, reason)] }
  let waits := match l.answers.getLast? with | some (n, q, _) => n && q == l.rx | none => false
  if p.passes && p.seq != l.rx then
    if decide ((l.rx - p.seq).toNat < 2 ^ 31) then
      -- a packet accepted before: it is acknowledged again
      .next (s.setVl i p.vl { l with answers := l.answers ++ [(false, l.rx - 1, 0)] })
    else .next (if waits then s else nak s 2)
  else if !p.passes then .next (if waits && p.seq != l.rx then s else nak s 0)
  else if s.jobHeld p.job && decide (p.type ≤ 8) then .next (nak s 3)
  else
    let (q, s) := s.draw
    if q % 2 = 1 then .next (nak s 1)
    else .next ((s.setVl i p.vl { l with rx := l.rx + 1, answers := l.answers ++ [(false, p.seq, 0)] }).acceptPacket p)

/-! ### The switch (R229) -/

/-- Contributions with one more: the same operation's grows, another is noted (R229). -/
def addContrib (cs : List (Nat × Nat × Nat)) (x : Nat × Nat × Nat) : List (Nat × Nat × Nat) :=
  if cs.any fun c => c.1 == x.1 && c.2.1 == x.2.1 then
    cs.map fun c => if c.1 == x.1 && c.2.1 == x.2.1 then (c.1, c.2.1, c.2.2 + x.2.2) else c
  else cs ++ [x]

/-- Add a pair or a partial sum to a merge entry, if its contributions fit: the entry holds those of up to four operations. -/
def MergeEnt.add (e : MergeEnt) (p : Spair) : Option MergeEnt :=
  let cs := p.contribs.foldl addContrib e.contribs
  if cs.length ≤ 4 then some { e with sum := e.sum + p.sum, contribs := cs } else none

/-- A new merge entry of a pair or partial sum. -/
def MergeEnt.of (p : Spair) : MergeEnt :=
  { dst := p.dst, win := p.win, index := p.index, wexp := p.wexp, sum := p.sum, contribs := p.contribs, job := p.job }

/-- Whether a pair has an entry's key. A window is one of a fabric job (R226), so the job is part of it. -/
def MergeEnt.matches (e : MergeEnt) (p : Spair) : Bool :=
  e.dst == p.dst && e.job == p.job && e.win == p.win && e.index == p.index && e.wexp == p.wexp

/-- The entries of the table of a package's egress port. -/
def State.mergeTable (s : State) (dst : Nat) : List MergeEnt :=
  s.merge.filter fun e => Config.egressPort e.dst == Config.egressPort dst

/-- A sum goes on towards its destination (R229): at this package's home it is added and its contributions are acknowledged; to
another it leaves by the switch. -/
def State.sendSum (s : State) (e : MergeEnt) : State :=
  if e.dst = s.pkg then
    let (m, s) := s.packetRel
    let (ok, s) := s.deliverSpred e.job e.win e.index e.wexp e.sum.toInt (e.contribs.foldl (fun n c => n + c.2.2) 0) [m]
    s.acknowledge e.job ok e.contribs
  else { s with mergeOut := s.mergeOut ++ [e] }

/-- Flush the entries that satisfy a condition. -/
def State.flushSums (s : State) (f : MergeEnt → Bool) : State :=
  (s.merge.filter f).foldl State.sendSum { s with merge := s.merge.filter fun e => !f e }

/-- The entry whose slot is needed, with the table of an egress port full (R229): which one is a free value (DESIGN CHOICE, log
entry 72). -/
def State.flushOldest (s : State) (dst : Nat) : State :=
  let (q, s) := s.draw
  match (s.mergeTable dst)[q % max 1 (s.mergeTable dst).length]? with
  | some e => s.flushSums (· == e)
  | none => s

/-- SWITCH_MERGE (R229): an entry of the destination's egress port that matches and fits takes the pair or partial sum, else a free
entry; else it goes on unmerged on the overflow path, and an entry is flushed whose slot is needed. What comes on the overflow path goes
on there. After the last packet of an operation every entry that
it contributes to is flushed. -/
def execSwitchMerge (p : Spair) (s : State) : Out :=
  let fits := s.merge.findIdx? fun e => e.matches p && (e.add p).isSome
  let aside : MergeEnt := { MergeEnt.of p with overflow := true }
  let s :=
    if p.overflow then s.sendSum aside
    else match fits with
    | some i =>
      match (s.merge[i]?).bind fun e => e.add p with
      | some e => { s with merge := s.merge.set i e }
      | none => s
    | none =>
      if (s.mergeTable p.dst).length < 65536 then { s with merge := s.merge ++ [MergeEnt.of p] }
      else (s.sendSum aside).flushOldest p.dst
  .next (if p.last then s.flushSums fun e => e.contribs.any fun c => p.contribs.any fun d => c.1 == d.1 && c.2.1 == d.2.1 else s)

/-- MERGE_FLUSH_INTERVAL (R229): an entry is sent towards its destination. -/
def execMergeFlushInterval (i : Nat) (s : State) : Out :=
  match s.merge[i]? with
  | none => .next s
  | some e => .next ({ s with merge := s.merge.eraseIdx i }.sendSum e)

end Sys2Proof.Machine
end

