-- ==== Sys2Proof/Machine/Integer.lean ====
section
/-! DEFINITION. Integer and address instructions, opcodes 0x00 to 0x1D (R55 to R77). -/

namespace Sys2Proof.Machine

/-- An entry whose result is `finish` of an exact integer function of A and B (R63, R64). -/
def State.arith2 (s : State) (f : Alu) (g : Int → Int → Int) : Out :=
  let w := f.ty.width
  s.performAlu f w fun e l => fill f.ty (finish f.sat f.ty (g (tyVal f.ty (e.a f w l)) (tyVal f.ty (e.b f w l))))

/-- IADD (R63). -/
def execIadd (f : Alu) (s : State) : Out := s.arith2 f fun a b => a + b
/-- ISUB (R63). -/
def execIsub (f : Alu) (s : State) : Out := s.arith2 f fun a b => a - b
/-- IMUL (R63). -/
def execImul (f : Alu) (s : State) : Out := s.arith2 f fun a b => a * b
/-- IMULHI (R63): bits 2w − 1 to w of the product modulo 2^(2w). -/
def execImulhi (f : Alu) (s : State) : Out :=
  s.arith2 f fun a b => (wrap (a * b) (2 * f.ty.width) / 2 ^ f.ty.width : Nat)
/-- IMAD (R63): one saturation of the exact value. -/
def execImad (f : Alu) (s : State) : Out :=
  let w := f.ty.width
  s.performAlu f w fun e l =>
    fill f.ty (finish f.sat f.ty (tyVal f.ty (e.a f w l) * tyVal f.ty (e.b f w l) + tyVal f.ty (e.c f w l)))
/-- IMIN (R64). -/
def execImin (f : Alu) (s : State) : Out := s.arith2 f fun a b => if a ≤ b then a else b
/-- IMAX (R64). -/
def execImax (f : Alu) (s : State) : Out := s.arith2 f fun a b => if a ≤ b then b else a
/-- IABS (R64). -/
def execIabs (f : Alu) (s : State) : Out :=
  let w := f.ty.width
  s.performAlu f w fun e l => fill f.ty (finish f.sat f.ty ((tyVal f.ty (e.a f w l)).natAbs : Nat))

/-- An entry whose result is a function of the bits of A and B (R65). -/
def State.bits2 (s : State) (f : Alu) (g : Nat → Nat → Nat) : Out :=
  let w := f.ty.width
  s.performAlu f w fun e l => lowBits (g (e.a f w l) (e.b f w l)) w

/-- AND (R65). -/
def execAnd (f : Alu) (s : State) : Out := s.bits2 f fun a b => a &&& b
/-- OR (R65). -/
def execOr (f : Alu) (s : State) : Out := s.bits2 f fun a b => a ||| b
/-- XOR (R65). -/
def execXor (f : Alu) (s : State) : Out := s.bits2 f fun a b => a ^^^ b
/-- ANDN (R65): A AND (NOT B). -/
def execAndn (f : Alu) (s : State) : Out := s.bits2 f fun a b => a ^^^ (a &&& b)

/-- An entry whose result is a function of A and the 32-bit count in B (R66). -/
def State.shift2 (s : State) (f : Alu) (g : Nat → Nat → Nat) : Out :=
  let w := f.ty.width
  s.performAlu f w fun e l => fill f.ty (lowBits (g (e.a f w l) (e.b32 f l)) w)

/-- SHL (R66): 0 for a count of the width or more. -/
def execShl (f : Alu) (s : State) : Out :=
  s.shift2 f fun a n => if f.ty.width ≤ n then 0 else a * 2 ^ n
/-- SHR (R66). -/
def execShr (f : Alu) (s : State) : Out :=
  s.shift2 f fun a n => if f.ty.width ≤ n then 0 else a / 2 ^ n
/-- SAR (R66): copies of bit w − 1, also for a count of the width or more. -/
def execSar (f : Alu) (s : State) : Out :=
  s.shift2 f fun a n => wrap (sext a f.ty.width / (2 ^ min n f.ty.width : Nat)) f.ty.width
/-- ROT (R66): left by the count modulo w. -/
def execRot (f : Alu) (s : State) : Out :=
  s.shift2 f fun a n => a * 2 ^ (n % f.ty.width) + a / 2 ^ (f.ty.width - n % f.ty.width)

/-- The number of 1 bits among the low `w`. -/
def popCount (x w : Nat) : Nat := ((List.range w).filter fun i => x.testBit i).length

/-- The number of 0 bits above the highest 1 bit of `w` bits. -/
def leadingZeros (x : Nat) : Nat → Nat
  | 0 => 0
  | w + 1 => if x.testBit w then 0 else leadingZeros x w + 1

/-- The low `w` bits in reverse order. -/
def bitReverse (x w : Nat) : Nat :=
  (List.range w).foldl (fun y i => if x.testBit i then y + 2 ^ (w - 1 - i) else y) 0

/-- POPC (R67): one 32-bit register, for either width of A. -/
def execPopc (f : Alu) (s : State) : Out :=
  s.performAlu f 32 fun e l => popCount (e.a f f.ty.width l) f.ty.width
/-- CLZ (R67). -/
def execClz (f : Alu) (s : State) : Out :=
  s.performAlu f 32 fun e l => leadingZeros (e.a f f.ty.width l) f.ty.width
/-- BREV (R67). -/
def execBrev (f : Alu) (s : State) : Out :=
  s.performAlu f f.ty.width fun e l => bitReverse (e.a f f.ty.width l) f.ty.width

/-- The position and length of a field descriptor (R68). -/
def fieldPos (desc : Nat) : Nat := desc % 256
def fieldLen (desc w : Nat) : Nat := min (desc / 256 % 256) w

/-- The field that BFE extracts (R68). -/
def bitExtract (t : Ty) (a desc : Nat) : Nat :=
  let w := t.width
  let len := fieldLen desc w
  let bit (i : Nat) : Bool :=
    if fieldPos desc + i < w then a.testBit (fieldPos desc + i) else t.signed && a.testBit (w - 1)
  let x := (List.range len).foldl (fun y i => if bit i then y + 2 ^ i else y) 0
  if len = 0 then 0 else if t.signed then wrap (sext x len) w else x

/-- What BFI leaves in C's place (R68). -/
def bitInsert (w a c desc : Nat) : Nat :=
  (List.range w).foldl (fun y i =>
    let inside := decide (fieldPos desc ≤ i ∧ i < fieldPos desc + fieldLen desc w)
    if (if inside then a.testBit (i - fieldPos desc) else c.testBit i) then y + 2 ^ i else y) 0

/-- BFE (R68). -/
def execBfe (f : Alu) (s : State) : Out :=
  s.performAlu f f.ty.width fun e l => fill f.ty (bitExtract f.ty (e.a f f.ty.width l) (e.b32 f l))
/-- BFI (R68). -/
def execBfi (f : Alu) (s : State) : Out :=
  s.performAlu f f.ty.width fun e l =>
    bitInsert f.ty.width (e.a f f.ty.width l) (e.c f f.ty.width l) (e.b32 f l)

/-- ICMP (R69). -/
def execIcmp (f : Alu) (s : State) : Out :=
  let w := f.ty.width
  s.performPred f fun e l => condHolds f.sub.toNat (relInt (tyVal f.ty (e.a f w l)) (tyVal f.ty (e.b f w l)))

/-- SEL (R70): predicate C, or a scalar register that is nonzero in the uniform form: all its 64 bits are tested, whatever the type
(DEDUCED, log entry 61: R70 tests the register, while R56 reads the low 32 bits of a 32-bit type's sources). -/
def execSel (f : Alu) (s : State) : Out :=
  let w := f.ty.width
  let i := opndIdx f.c
  s.performAlu f w fun e l =>
    if (if f.u then e.regs.scal i.toNat != 0 else e.ptest i l) then e.a f w l else e.b f w l

/-- PSET (R71). -/
def execPset (f : PsetOp) (s : State) : Out :=
  let e := s.env
  s.performRegs f.guard 16 fun act t =>
    t.regs.setPred f.d.toNat act (maskOf fun l =>
      f.table.getLsbD (4 * (e.ptest f.a l).toNat + 2 * (e.ptest f.b l).toNat + (e.ptest f.c l).toNat))

/-- MOV (R72). -/
def execMov (f : Alu) (s : State) : Out := s.performAlu f f.ty.width fun e l => e.b f f.ty.width l

/-- MOVI (R73): one half of the 64-bit destination. -/
def execMovi (f : Alu) (s : State) : Out :=
  s.performAlu f 64 fun e l =>
    let old := e.reg f.d.toNat f.u 64 l
    let imm := e.b f 32 l
    if f.sub = 0 then old / 2 ^ 32 * 2 ^ 32 + imm else imm * 2 ^ 32 + old % 2 ^ 32

/-- LEA (R74): the base's immediate is sign-extended whatever T is. -/
def execLea (f : Alu) (s : State) : Out :=
  s.performAlu f 64 fun e l =>
    wrap ((e.opnd f.b f.u true 64 l : Nat) + tyVal f.ty (e.a f 32 l) * (2 ^ f.sub.toNat : Nat)) 64

/-- IADDC (R75): in the uniform form the carry-in is that of the lowest active lane, and the carry-out goes to every
active lane. -/
def execIaddc (f : Alu) (s : State) : Out :=
  let w := f.ty.width
  let e := s.env
  let pin := opndIdx f.c
  s.performRegs f.guard (ilen f.ext) fun act t =>
    let sum (l : Nat) : Nat :=
      e.a f w l + e.b f w l + (e.ptest pin (if f.u then lowestLane act else l)).toNat
    let r := if f.u then t.regs.setScal f.d.toNat (BitVec.ofNat 64 (lowBits (sum 0) w))
      else t.regs.putLanes f.d.toNat w act fun l => lowBits (sum l) w
    r.setPred f.sub.toNat act (maskOf fun l => decide (2 ^ w ≤ sum (if f.u then 0 else l)))

/-- Byte `k` of a value. -/
def byteOf (x k : Nat) : Nat := x / 2 ^ (8 * k) % 256

/-- The 32-bit integer type of a byte type's signedness (R76). -/
def wordTy (t : Ty) : Ty := if t.signed then .i32 else .n32

/-- DP4 (R76). -/
def execDp4 (f : Alu) (s : State) : Out :=
  let t := wordTy f.ty
  s.performAlu f 32 fun e l =>
    let x := (List.range 4).foldl (fun (x : Int) k =>
      x + tyVal f.ty (byteOf (e.a f 32 l) k) * tyVal f.ty (byteOf (e.b f 32 l) k)) (tyVal t (e.c f 32 l))
    fill t (finish f.sat t x)

/-- ISAD (R77): the result is `.n32` whatever T is. -/
def execIsad (f : Alu) (s : State) : Out :=
  s.performAlu f 32 fun e l =>
    let a := e.a f 32 l
    let b := e.b f 32 l
    let c : Nat := e.c f 32 l
    let d := if f.ty == .n8 then
        (List.range 4).foldl (fun n k => n + ((byteOf a k : Int) - (byteOf b k : Int)).natAbs) 0
      else (tyVal f.ty a - tyVal f.ty b).natAbs
    finish f.sat .n32 ((c + d : Nat) : Int)

end Sys2Proof.Machine
end

