-- ==== Sys2Proof/Machine/Named.lean ====
section
/-! DEFINITION. Named-line instructions, opcodes 0xD0 to 0xDA (R283 to R301). -/

namespace Sys2Proof.Machine

/-- Status codes (R284). -/
def nsOk : Nat := 0
def nsFound : Nat := 1
def nsZero : Nat := 2
def nsPoolEmpty : Nat := 3
def nsPinLogFull : Nat := 4
def nsGenMismatch : Nat := 5
def nsWindowBusy : Nat := 6
def nsWindowSmall : Nat := 7
def nsNotFound : Nat := 9

/-- A name in two consecutive scalar registers (R274). -/
def Regs.name (r : Regs) (i : Nat) : Name := r.scal (i + 1) ++ r.scal i

/-- Write a name to two consecutive scalar registers. -/
def Regs.setName (r : Regs) (i : Nat) (n : Name) : Regs :=
  (r.setScal i (n.setWidth 64)).setScal (i + 1) (n.extractLsb' 64 64)

/-- The context of the executing group. -/
def State.myCtx (s : State) : Nat := s.ctxOf s.cur

/-- The domain of a region of the executing group's context (R272). -/
def State.regionOf (s : State) (r : BitVec 4) : Option Nat := (s.ctx s.myCtx).region r.toNat

/-- Raise NAME_BAD on a named-line instruction of `n` bytes. -/
def State.nameBad (s : State) (n : Nat) (act : Mask) (va : Nat) : State := s.raise n act fcNameBad (BitVec.ofNat 64 va)

/-- Whether a name is a leaf or node name that is allocated in a domain. -/
def State.allocated (s : State) (dom : Nat) (n : Name) : Bool := nameReal n && ((s.domain dom).find n).isSome

/-- The check of a scratchpad line (R297): a fault code, or its location. -/
def State.lineAt (s : State) (off : Nat) : Except Nat Nat :=
  if off % 256 != 0 then .error fcMisaligned
  else match s.scratchLoc s.grp.block off 256 with
    | none => .error fcScratchBounds
    | some l => .ok l

/-! ### NPUT and NHASH (R286, R287) -/

/-- What NPUT or NHASH leaves in its registers. -/
structure PutResult where
  name : Name
  status : Nat
  found : Bool

/-- Whether a line is 256 zero bytes, or a node of 16 zero-line names. -/
def isZeroLine (k : Nat) (bs : List MByte) : Bool :=
  if k = 0 then bs.all fun b => b.val == 0 else (childNames bs).all (· == zeroName)

/-- The action of NPUT or NHASH at the home (R286): an exhausted lookup is a fault, and so is a leaf or node child that is not
allocated when a new node's increments are made (R287). -/
def State.putLine (s : State) (dom k : Nat) (hash : Bool) (bs : List MByte) : Except Nat PutResult × State :=
  if isZeroLine k bs then (.ok ⟨zeroName, nsZero, true⟩, s)
  else
    let full : PutResult := ⟨emptyName, nsPinLogFull, false⟩
    match (s.domain dom).lookup (bs.map (·.val)) k with
    | .exhausted => (.error fcNameCollision, s)
    | .found n =>
      if hash then (.ok ⟨n, nsFound, true⟩, s)
      else
        let (ok, s) := s.pin s.myCtx dom n
        (.ok (if ok then ⟨n, nsFound, true⟩ else full), s)
    | .absent n =>
      if hash then (.ok ⟨n, nsNotFound, false⟩, s)
      else if !(s.ctx s.myCtx).canPin dom n then (.ok full, s)
      else if s.freeOn dom (nameStack n) = 0 then (.ok ⟨emptyName, nsPoolEmpty, false⟩, s)
      else if k = 1 && (childNames bs).any fun c => nameReal c && !s.allocated dom c then (.error fcNameBad, s)
      else (.ok ⟨n, nsOk, false⟩, (s.allocLine dom n bs).modCtx s.myCtx fun c => c.addPin dom n)

/-- NPUT and NHASH (R286, R287, R297, R298). -/
def State.nameLine (s : State) (f : NputOp) (hash : Bool) : Out :=
  s.copyClass 16 fun act s =>
    let off := (s.th.regs.scal f.a.toNat).toNat
    let k := if f.node then 1 else 0
    match s.lineAt off with
    | .error c => s.raise 16 act c (BitVec.ofNat 64 off)
    | .ok loc =>
      match s.regionOf f.region with
      | none => s.nameBad 16 act f.region.toNat
      | some dom =>
        let b := s.grp.block
        match s.blockers b off loc 256 none with
        | w :: ws => s.waitHere (.watermark (w :: ws))
        | [] =>
          let s := s.joinBelow b off loc 256
          let (bs, s) := s.engineRead s.grp.core (s.engineMust s.cur ++ s.belowSids b off loc 256) s.grp.known loc 256
          if anyPoison bs then (s.advance 16).kill s.th.live
          else if f.node && !((childNames bs).all nameValid) then s.nameBad 16 act off
          else match s.putLine dom k hash bs with
            | (.error c, s) => s.raise 16 act c (BitVec.ofNat 64 off)
            | (.ok p, s) =>
              let r := (s.th.regs.setName f.d.toNat p.name).setScal (f.d.toNat + 2) (BitVec.ofNat 64 p.status)
              (s.setRegs (r.setPred f.c.toNat act (if p.found then act else 0))).advance 16

/-- NPUT (R286). -/
def execNput (f : NputOp) (s : State) : Out := s.nameLine f false
/-- NHASH (R286). -/
def execNhash (f : NputOp) (s : State) : Out := s.nameLine f true

/-! ### NGET (R288) -/

/-- The bytes that NGET writes for a name, or none for NAME_BAD. -/
def State.lineBytes (s : State) (dom : Nat) (n : Name) : Option (List MByte) :=
  if n == zeroName then some (List.replicate 256 ⟨0, false⟩)
  else if !nameValid n || !nameReal n then none
  else ((s.domain dom).find n).map fun l => l.bytes

/-- NGET (R288): the bytes enter the group's view at its return. -/
def execNget (f : NnameOp) (s : State) : Out :=
  let n := ilen f.ext
  s.copyClass n fun act s =>
    let off := (s.th.regs.scal f.d.toNat).toNat
    match s.lineAt off with
    | .error c => s.raise n act c (BitVec.ofNat 64 off)
    | .ok loc =>
      match s.regionOf f.region with
      | none => s.nameBad n act f.region.toNat
      | some dom =>
        match s.lineBytes dom (s.th.regs.name f.a.toNat) with
        | none => s.nameBad n act off
        | some bs =>
          (s.enterStore s.grp.core s.cur { loc := loc, bytes := bs, va := BitVec.ofNat 64 off } none).advance n

/-! ### Root slots (R277, R289, R290) -/

/-- The domain of a root page among those a context binds (R271, R297). -/
def State.rootDomain (s : State) (ctx : Nat) (p : Phys) : Option Nat :=
  if !p.named then none
  else (List.find? (fun (d, x) => (s.ctx ctx).binds d && x.roots.contains (p.pa / 65536 * 65536)) s.domains).map (·.1)

/-- What the checks of a slot address come to (R297): a fault with its address, or the slot's location and domain. -/
def State.slotAt (s : State) (a : Nat) : Except Nat (Nat × Nat) × State :=
  if a % 32 != 0 then (.error fcMisaligned, s)
  else match s.translate s.myCtx a with
    | (none, s) => (.error fcPageNotPresent, s)
    | (some p, s) =>
      match s.rootDomain s.myCtx p with
      | none => (.error fcNameBad, s)
      | some d => (.ok (p.pa, d), s)

/-- Raise a fault of a slot check; `faultva` is the slot address (R153, R297). -/
def State.slotFault (s : State) (n : Nat) (act : Mask) (code a : Nat) : State :=
  s.raise n act code (BitVec.ofNat 64 a)

/-- A root slot's four words as a number at a time (R277). -/
def slotWord (bs : List MByte) (k : Nat) : Nat := mVal ((bs.drop (8 * k)).take 8)

/-- The name in a root slot. -/
def slotName (bs : List MByte) : Name := BitVec.ofNat 128 (mVal (bs.take 16))

/-- LEN and DEPTH of a meta word (R277). -/
def metaLen (m : Nat) : Nat := nbits m 47 0
def metaDepth (m : Nat) : Nat := nbits m 50 48

/-- Whether a meta word keeps R277: zero bits zero, and LEN within the tree. -/
def metaOk (m : Nat) : Bool := nbits m 55 51 == 0 && decide (metaLen m ≤ 256 * 16 ^ metaDepth m)

/-- Whether a name may be a root: valid, and allocated when it is a leaf or node name. -/
def State.rootNameOk (s : State) (dom : Nat) (n : Name) : Bool := nameValid n && (!nameReal n || s.allocated dom n)

/-- Read a root slot at its home (R289), with the releases that happen before its value. The read counts where its group is not live, and
an atomic one clears NL (R161). -/
def State.readSlot (s : State) (pa : Nat) (atom : Bool) : List MByte × State :=
  let bs := s.homeBytes pa 32
  let s := if anyPoison bs then s else s.learnHome pa 32
  (bs, if !atom then s.noteNonLive pa 32 else if anyPoison bs then s else s.touchHome pa)

/-- The release of an ordered root-slot instruction, completed before the slot is read: the first undelivered store, the
releases that publish the slot write, and the state (R205, R297). -/
def State.slotRelease (s : State) (o : Order) (r : Nat) (mask : BitVec 4) : Option (BitVec 64) × List Nat × State :=
  match s.orderRelease o r mask with
  | (some va, s) => (some va, [], s)
  | (none, s) =>
    if o == .rel || o == .ar || o == .sc then
      let ms := s.grp.known.take 1
      (none, ms, s.completeAll s.grp.core)
    else (none, [], s)

/-- Write the slot as it was to four scalar registers, with a status (R289, R290). -/
def Regs.setSlot (r : Regs) (d : Nat) (bs : List MByte) (status : Nat) : Regs :=
  (((r.setScal d (BitVec.ofNat 64 (slotWord bs 0))).setScal (d + 1) (BitVec.ofNat 64 (slotWord bs 1))).setScal (d + 2)
    (BitVec.ofNat 64 (slotWord bs 2))).setScal (d + 3)
    (BitVec.ofNat 64 (slotWord bs 3 % 2 ^ 32 + status * 2 ^ 32))

/-- NROOT (R289, R297, R298). -/
def execNroot (f : NrootOp) (s : State) : Out :=
  let n := ilen f.ext
  s.copyClass n fun act s =>
    let a := (s.th.regs.scal f.a.toNat).toNat
    let r := scopeRank f.scope
    match s.slotAt a with
    | (.error c, s) => s.slotFault n act c a
    | (.ok (pa, dom), s) =>
      match s.blockers s.grp.block a pa 32 none with
      | w :: ws => s.waitHere (.watermark (w :: ws))
      | [] =>
        match (s.joinBelow s.grp.block a pa 32).slotRelease f.order r f.mask with
        | (some va, _, s) => s.raise n act fcFabricUnreachable va
        | (none, _, s) =>
          let (bs, s) := s.readSlot pa false
          if anyPoison bs then ((s.orderAcquire f.order r f.mask).advance n).kill s.grp.allLanes
          else
            let (ok, s) := if f.pin then s.pin s.myCtx dom (slotName bs) else (true, s)
            let s := s.setRegs (s.th.regs.setSlot f.d.toNat bs (if ok then nsOk else nsPinLogFull))
            (s.orderAcquire f.order r f.mask).advance n

/-- Install a new root in a slot whose generation matched (R290). The old name's decrement follows in the same step (DEDUCED, log
entry 80). -/
def State.installRoot (s : State) (dom pa : Nat) (old : List MByte) (name : Name) (m rank : Nat) (rels : List Nat) :
    State :=
  let gen := (slotWord old 3 % 2 ^ 32 + 1) % 2 ^ 32
  let was := slotName old
  let s := if name == was then s else s.incName dom name
  let s := s.homeStore s.cur pa (leMBytes 16 name.toNat ++ leMBytes 8 m ++ leMBytes 8 gen) rank rels
  if name == was then s else s.decName dom was

/-- NSWAP (R290, R297, R298; DEDUCED, log entry 49). -/
def execNswap (f : NswapOp) (s : State) : Out :=
  s.copyClass 16 fun act s =>
    let regs := s.th.regs
    let a := (regs.scal f.a.toNat).toNat
    let b := f.b.toNat
    let name := regs.name b
    let m := (regs.scal (b + 2)).toNat
    let want := (regs.scal (b + 3)).toNat % 2 ^ 32
    let r := scopeRank f.scope
    match s.slotAt a with
    | (.error c, s) => s.slotFault 16 act c a
    | (.ok (pa, dom), s) =>
      if !s.rootNameOk dom name || !metaOk m then s.slotFault 16 act fcNameBad a
      else match s.blockers s.grp.block a pa 32 none with
        | w :: ws => s.waitHere (.watermark (w :: ws))
        | [] =>
          match (s.joinBelow s.grp.block a pa 32).slotRelease f.order r f.mask with
          | (some va, _, s) => s.raise 16 act fcFabricUnreachable va
          | (none, rels, s) =>
            let (bs, s) := s.readSlot pa true
            if anyPoison bs then ((s.orderAcquire f.order r f.mask).advance 16).kill s.grp.allLanes
            else
              let ok := slotWord bs 3 % 2 ^ 32 == want
              let s := if ok then s.installRoot dom pa bs name m r rels else s
              let out := (s.th.regs.setSlot f.d.toNat bs (if ok then nsOk else nsGenMismatch)).setPred f.c.toNat act
                (if ok then act else 0)
              ((s.setRegs out).orderAcquire f.order r f.mask).advance 16

/-! ### Pins (R291) -/

/-- Write a status to a scalar register and go on. -/
def State.nameStatus (s : State) (d : Idx) (n status : Nat) : State :=
  (s.setRegs (s.th.regs.setScal d.toNat (BitVec.ofNat 64 status))).advance n

/-- The name and domain that NPIN and NUNPIN act on: none for NAME_BAD, and its `faultva`. -/
def State.pinned (s : State) (f : NnameOp) : Except Nat (Nat × Name) :=
  match s.regionOf f.region with
  | none => .error f.region.toNat
  | some dom =>
    let n := s.th.regs.name f.a.toNat
    if n == zeroName || (nameValid n && s.allocated dom n) then .ok (dom, n) else .error 0

/-- NPIN (R291). -/
def execNpin (f : NnameOp) (s : State) : Out :=
  let n := ilen f.ext
  s.copyClass n fun act s =>
    match s.pinned f with
    | .error va => s.nameBad n act va
    | .ok (dom, nm) =>
      let (ok, s) := s.pin s.myCtx dom nm
      s.nameStatus f.d n (if ok then nsOk else nsPinLogFull)

/-- NUNPIN (R291). -/
def execNunpin (f : NnameOp) (s : State) : Out :=
  let n := ilen f.ext
  s.copyClass n fun act s =>
    match s.pinned f with
    | .error va => s.nameBad n act va
    | .ok (dom, nm) =>
      if nameReal nm && (s.ctx s.myCtx).pinsOn dom nm == 0 then s.nameBad n act 0
      else (s.unpin s.myCtx dom nm).nameStatus f.d n nsOk

/-! ### Views (R292, R294) -/

/-- A window of a context's view-window table (R352): its view number and length. -/
def State.windowAt (s : State) (ctx base : Nat) : Option (Nat × Nat) :=
  let tab := (s.ctx ctx).field 30 51 0
  (List.range 64).findSome? fun i =>
    let w0 := (s.homeWord (tab + 16 * i)).toNat
    let w1 := (s.homeWord (tab + 16 * i + 8)).toNat
    if nbits w1 63 63 = 1 ∧ w0 = base then some (nbits w1 59 48, nbits w1 41 0) else none

/-- The read of a context's view-window table, counted where its group is not live (R161). -/
def State.noteWindows (s : State) (ctx : Nat) : State := s.notePhys ((s.ctx ctx).field 30 51 0) 1024

/-- NBIND (R292, R297): the window's pin is an entry of the pin log (R281; DEDUCED, log entry 68). -/
def execNbind (f : NbindOp) (s : State) : Out :=
  let n := ilen f.ext
  s.copyClass n fun act s =>
    let a := (s.th.regs.scal f.a.toNat).toNat
    let base := (s.th.regs.scal f.b.toNat).toNat
    if a % 32 != 0 || base % 65536 != 0 then s.slotFault n act fcMisaligned a
    else match s.slotAt a with
      | (.error c, s) => s.slotFault n act c a
      | (.ok (pa, dom), s) =>
        match s.windowAt s.myCtx base with
        | none => (s.noteWindows s.myCtx).slotFault n act fcNameBad base
        | some (view, len) =>
          let s := s.noteWindows s.myCtx
          if ((s.ctx s.myCtx).view view).isSome then s.nameStatus f.d n nsWindowBusy
          else match s.blockers s.grp.block a pa 32 none with
            | w :: ws => s.waitHere (.watermark (w :: ws))
            | [] =>
              let (bs, s) := (s.joinBelow s.grp.block a pa 32).readSlot pa false
              if anyPoison bs then (s.advance n).kill s.grp.allLanes
              else
                let m := slotWord bs 2
                let name := slotName bs
                -- the pin is taken before the length is looked at, and released where the window is too small
                match s.pin s.myCtx dom name with
                | (ok, s) =>
                  if len < metaLen m then (if ok then s.unpin s.myCtx dom name else s).nameStatus f.d n nsWindowSmall
                  else if !ok then s.nameStatus f.d n nsPinLogFull
                  else
                    let w : Bound := { view := view, dom := dom, name := name, depth := metaDepth m, len := metaLen m }
                    (s.modCtx s.myCtx fun c => { c with bound := c.bound ++ [w] }).nameStatus f.d n nsOk

/-- NUNBIND (R294, R297). -/
def execNunbind (f : NbindOp) (s : State) : Out :=
  let n := ilen f.ext
  s.copyClass n fun act s =>
    let base := (s.th.regs.scal f.a.toNat).toNat
    if base % 65536 != 0 then s.slotFault n act fcMisaligned base
    else match s.windowAt s.myCtx base with
      | none => (s.noteWindows s.myCtx).slotFault n act fcNameBad base
      | some (view, _) =>
        let s := s.noteWindows s.myCtx
        match (s.ctx s.myCtx).view view with
        | none => s.nameStatus f.d n nsOk
        | some w =>
          ((s.modCtx s.myCtx fun c => { c with bound := c.bound.filter fun b => b.view != view }).unpin s.myCtx w.dom
            w.name).nameStatus f.d n nsOk

/-! ### NCOPY (R295) -/

/-- NCOPY (R295, R297). The empty name is a root, whose tree is zeros (DEDUCED, log entry 68). The spec gives no `faultva` for a bad
name or meta word, so it is a free value (DESIGN CHOICE, log entry 22). -/
def execNcopy (f : NcopyOp) (s : State) : Out :=
  let n := ilen f.ext
  s.copyClass n fun act s =>
    let regs := s.th.regs
    let dst := regs.scal f.d.toNat
    let name := regs.name f.a.toNat
    let m := (regs.scal (f.a.toNat + 2)).toNat
    let kind (dom : Nat) : OpKind := .ncopy f.dsp dst dom name (metaDepth m) (metaLen m)
    if s.chanFull f.ch.toNat then s.waitHere .hold
    else match firstMisaligned 4 [dst.toNat, metaLen m] with
      | some v => s.raise n act fcMisaligned (BitVec.ofNat 64 v)
      | none =>
        match s.issueBounds (kind 0) with
        | some v => s.raise n act fcScratchBounds (BitVec.ofNat 64 v)
        | none =>
          match s.regionOf f.region with
          | none => s.nameBad n act f.region.toNat
          | some dom =>
            if !s.rootNameOk dom name || !metaOk m then
              let (q, s) := s.draw
              s.nameBad n act (q % 2 ^ 64)
            else match s.pin s.myCtx dom name with
              | (false, s) => s.nameBad n act 0xFFFFFFFF
              | (true, s) =>
                let empty := metaLen m == 0
                let s := if empty then s.unpin s.myCtx dom name else s
                s.issueCopy n f.ch.toNat (kind dom) empty

/-! ### NSTAT (R296) -/

/-- NSTAT (R296). -/
def execNstat (f : NstatOp) (s : State) : Out :=
  let n := ilen f.ext
  s.copyClass n fun act s =>
    match s.regionOf f.region with
    | none => s.nameBad n act f.region.toNat
    | some dom =>
      let nm := s.th.regs.name f.a.toNat
      match f.sub with
      | .pool => s.nameStatus f.d n (s.freeLines dom)
      | .count =>
        if !nameValid nm then s.nameBad n act 0
        else match (if nameReal nm then (s.domain dom).find nm else none) with
          | none => s.nameStatus f.d n 0
          | some l => s.nameStatus f.d n (l.count + 2 ^ 32 + if l.immortal then 2 ^ 33 else 0)
      | .pins =>
        if !nameValid nm then s.nameBad n act 0
        else s.nameStatus f.d n ((s.ctx s.myCtx).pinsOn dom nm)

end Sys2Proof.Machine
end

