-- ==== Sys2Proof/Machine/Reliable.lean ====
section
/-! DEFINITION. Reliability, boot and power: drains, lane fuses, in-field tests, scrubs, the boot steps and the power
arbiter (R18, R22, R28, R380 to R397); and the two internal steps of the memory path (R168, R324). -/

namespace Sys2Proof.Machine

/-! ### Counters (R381) -/

/-- Add to a saturating 64-bit error counter. -/
def State.tally (s : State) (off n : Nat) : State :=
  { s with counters := s.counters.put off (BitVec.ofNat 64 (min (2 ^ 64 - 1) ((Tab.get 0 s.counters off).toNat + n))) }

/-- BAR2 offsets of the counters of a stack and of a cluster. -/
def stackCounter (stack off : Nat) : Nat := 0x400000 + 0x100 * stack + off
def clusterCounter (cl off : Nat) : Nat := 0x401000 + 0x40 * cl + off

/-! ### Drains and lane fuses (R28, R384 to R386) -/

/-- A lane map with the halves of fewer than 16 good lanes fused off whole (R18). -/
def wholeHalves (lmap : BitVec 64) : BitVec 64 :=
  let keep (h : Nat) : BitVec 64 := if goodLanes lmap h < 16 then 0 else 0xFFFFFFFF <<< (32 * h)
  lmap &&& (keep 0 ||| keep 1)

/-- Whether a block holds room on a core. -/
def State.coreBusy (s : State) (core : Nat) : Bool := !(s.blocksOn core).isEmpty

/-- Whether a core holds a resident block of a redundant context: only there is an error in a datapath detected (R383). -/
def State.redundantOn (s : State) (core : Nat) : Bool :=
  s.blocks.any fun (b, x) => x.core == core && x.st == .resident && (s.ctx (s.ctxOfBlock b)).redundant

/-- A mismatch on a core (R384): every group there goes back to its last commit point, the stores gated since then are discarded, and
an open region is kept as it was held there (R315). -/
def State.rewindCore (s : State) (core : Nat) : State :=
  let here (x : Group) : Bool := x.core == core && !x.retired && (s.block x.block).st == .resident
  let s' := { s with groups := s.groups.mapVals fun _ x => if here x then { x.rewind with keep := true } else x }
  let s' := s'.passClock core (s.core core).clock
  s'.modCore core fun k => { k with stall := k.stall.filter fun g => match (s'.group g).wait with | .page _ => true | _ => false }

/-- CORE_DRAIN (R28, R384 to R386): the core takes no more blocks until the follow-up ends, and the unit of its cluster is to be
pre-empted. A mismatch of a redundant context's instruction is counted, puts the core's groups back, and quarantines the core; its
cluster's test falls due. -/
def execCoreDrain (core : Nat) (why : DrainWhy) (s : State) : Out :=
  let cl := clusterOf core
  match why with
  | .quarantine =>
    if !s.redundantOn core then .next s
    else
      let s := ((s.rewindCore core).tally (clusterCounter cl 0x10) 1).modCore core fun k =>
        { k with quarantine := true, passes := 0, drain := true }
      .next ((s.modCluster cl fun k => { k with testDue := true }).request cl false)
  | .fuse _ => .next ((s.modCore core fun k => { k with fuseDue := true }).request cl false)
  | .test => .next ((s.modCore core fun k => { k with drain := true }).request cl false)

/-- Blow a lane's fuse (R18, R386): `lmap` loses the lane, the core's translations are re-keyed to its new class, and a cluster left
without a core goes out of service. -/
def State.fuseLane (s : State) (core lane : Nat) : State :=
  let bit : BitVec 64 := 1#64 <<< (lane % 64)
  let s := { s with fuses := s.fuses.put core (Tab.get 0 s.fuses core ||| bit) }
  let s := s.modCore core fun k => { k with lmap := wholeHalves (k.lmap &&& ~~~bit) }
  let cl := clusterOf core
  let dead := (List.range 4).all fun i => coreClass (s.core (4 * cl + i)).lmap == 15
  (if dead then s.modCluster cl fun k => { k with inService := false } else s).retranslate.report 0 "lane fused" [core, lane]

/-- LANE_FUSE (R386): after the drain, which ends with it. A drain for quarantine or a test goes on until that follow-up ends
(R28). -/
def execLaneFuse (core lane : Nat) (s : State) : Out :=
  if !(s.core core).fuseDue || s.coreBusy core then .next s
  else .next ((s.fuseLane core lane).modCore core fun k => { k with fuseDue := false })

/-! ### In-field test (R385, R387 to R389) -/

/-- Whether the blocks of a cluster are those of a COSCHED grid. -/
def State.coschedOn (s : State) (cl : Nat) : Bool :=
  (s.blocksOnCluster cl).any fun b => (s.launch (s.block b).launch).kernel.cosched

/-- Whether a test of a cluster cannot begin yet (R387, R388): a group holds NP, or the die tests another cluster. -/
def State.testBlocked (s : State) (cl : Nat) : Bool :=
  s.npHeld (s.blocksOnCluster cl)
    || s.clusters.any fun (c, k) => c != cl && c / 32 == cl / 32 && k.underTest

/-- IN_FIELD_TEST (R387, R388): the test falls due. It is deferred while it cannot begin, and once for a COSCHED grid, whose
time-slice pre-emption it waits for. When it begins, the units on the cluster are to be pre-empted. -/
def execInFieldTest (cl : Nat) (s : State) : Out :=
  let k := s.cluster cl
  if !k.inService || k.underTest then .next s
  else if s.testBlocked cl || (s.coschedOn cl && !k.testDue) then .next (s.modCluster cl fun k => { k with testDue := true })
  else .next ((s.modCluster cl fun k => { k with underTest := true, testDue := false }).request cl false)

/-- A quarantined core after a passing test (R385): quarantine ends after two in a row that lie 10 minutes apart, which a
free value decides (DESIGN CHOICE, log entry 29). -/
def Core.passed (k : Core) (apart : Bool) : Core :=
  if !k.quarantine then k
  else if k.passes = 0 then { k with passes := 1 }
  else if apart then { k with quarantine := false, passes := 0 }
  else k

/-- How a test of a cluster ends (R389): its drains end, but for those of a fuse. A test that fails ends the row of passes of every
quarantined core there (R385). The answer is CLUSTER_TEST's reply word. -/
def State.endTest (s : State) (cl : Nat) (outcome : TestEnd) : Nat × State :=
  let s := s.modCluster cl fun k => { k with underTest := false }
  let each (s : State) (f : Core → Core) : State := (List.range 4).foldl (fun s i => s.modCore (4 * cl + i) f) s
  let s := each s fun k => { k with drain := false }
  match outcome with
  | .pass =>
    let (q, s) := s.draw
    (0, each s fun k => k.passed (q.testBit 0))
  | .laneFails core lane =>
    (1, (each (s.tally (clusterCounter cl 0x18) 1) fun k => { k with passes := 0 }).fuseLane (4 * cl + core % 4) lane)
  | .otherFails =>
    let s := each (s.tally (clusterCounter cl 0x18) 1) fun k => { k with passes := 0 }
    (2, (s.modCluster cl fun k => { k with inService := false }).report 0 "cluster out of service" [cl])

/-- IN_FIELD_TEST_END (R389): once the cluster has been emptied. -/
def execInFieldTestEnd (cl : Nat) (outcome : TestEnd) (s : State) : Out :=
  if !(s.cluster cl).underTest || !(s.blocksOnCluster cl).isEmpty then .next s else .next (s.endTest cl outcome).2

/-- CLUSTER_TEST (R369, R388): the test runs now, with its deferrals; the command stays in hand until the test can end. A cluster that is out of service is answered with 2. -/
def execClusterTest (c : Cmd) (outcome : TestEnd) (s : State) : Out :=
  let cl := c.op 0
  if s.taken c && c.nopw == 1 && c.ops.length == 1 && c.nonce == 0 && decide (cl < 128) && (s.cluster cl).inService then
    if (s.cluster cl).underTest && (s.blocksOnCluster cl).isEmpty then
      let (w, s) := s.endTest cl outcome
      .next (s.answer c rsOk [BitVec.ofNat 64 w])
    else execInFieldTest cl (s.later c (some outcome))
  else s.command c 1 fun s => if 128 ≤ cl then s.deny rsBadOperand else (rsOk, [2], s)

/-! ### Scrubs (R379 to R382) -/

/-- The key that a scrub names for the register storage of a group: of a vector lane 0 to 31, or 32 for scalar registers (R338). -/
def registerKey (g lane : Nat) : Nat := 0x200000000000000000000000000000000000000 + 64 * g + lane

/-- The key that a scrub names for the copy of a global location in core `n`'s L1, or for `n` from 512 on in the part of its die's L2 that
cluster `n - 512` holds (R165, R380; DESIGN CHOICE, log entry 84). -/
def copyKey (n loc : Nat) : Nat := 0x400000000000000000000000000000000000000 + n * 0x100000000000000 + loc

/-- The keys that a scrub names for a row of a block's tile, and for an element of its result queue (R377; DESIGN CHOICE, log entry 15). -/
def tileKey (b t row : Nat) : Nat := 0x300000000000000000000000000000000000000 + (16 * b + t) * 128 + row
def resultKey (b q i : Nat) : Nat := 0x380000000000000000000000000000000000000 + (8 * b + q) * 0x10000000000000000 + i

/-- Whether a block that holds its core's storage stands under a number. -/
def State.blockThere (s : State) (b : Nat) : Bool := match s.blocks.find? b with | some x => x.st != .retired | none => false

/-- A row of a tile, or a written element of a queue, that a key names is found uncorrectable: its data are poisoned (R379). -/
def State.spoilTile (s : State) (n : Nat) : State :=
  let b := n / 2048
  if s.blockThere b && decide (n / 128 % 16 < (s.launch (s.block b).launch).kernel.tiles) then
    s.modTile b (n / 128 % 16) fun t => { t with poison := t.poison ||| (1#128 <<< (n % 128)) }
  else s
def State.spoilQueue (s : State) (n : Nat) : State :=
  let b := n / 0x10000000000000000 / 8
  if s.blockThere b then
    s.modQueue b (n / 0x10000000000000000 % 8) fun r =>
      { r with elems := r.elems.mapVals fun i e => if i = n % 0x10000000000000000 && e.written then { e with poison := true } else e }
  else s

/-- The bytes of a list, those in a 32-byte sector poisoned. -/
def spoilBytes (loc sector : Nat) (bs : List MByte) : List MByte :=
  bs.mapIdx fun i b => if (loc + i) / 32 = sector / 32 then { b with poison := true } else b

/-- The bytes of a write, those in a 32-byte sector poisoned. -/
def Write.spoiled (w : Write) (sector : Nat) : Write :=
  { w with bytes := spoilBytes w.loc sector w.bytes }

/-- Mark the 32-byte sector of a location as poisoned at its home. A scratchpad or B store is its own home, so that views, stores
not yet published and an engine's writes show it too (R379, R380). Groups whose read set holds the line are to take a UE abort (R308). -/
def State.spoilSector (s : State) (loc : Nat) : State :=
  let sector := loc / 32 * 32
  let view (k : Core) : Core :=
    if nearKey loc then
      { k with view := k.view.mapVals fun a v => if a / 32 = loc / 32 then { v with poison := true } else v,
               stores := k.stores.map fun st => { st with w := st.w.spoiled sector } }
    else k
  { s with
    poison := (List.range 32).foldl (fun p n => AddrSet.set p (sector + n) true) s.poison,
    cores := s.cores.mapVals fun _ k => view k,
    ops := if nearKey loc then s.ops.mapVals fun _ o => { o with wrote := o.wrote.map fun w => w.spoiled sector } else s.ops,
    hist := if nearKey loc then s.hist.map fun e =>
        { e with bytes := spoilBytes e.loc sector e.bytes, old := spoilBytes e.loc sector e.old } else s.hist,
    groups := s.groups.mapVals fun _ x => x.meetPoison sector 32 }

/-- A core whose cached copy of a sector is marked as poisoned: its view entries, its stores not yet published, and the bytes that have no
entry, which a load or store of the core may meet in the cache (R165, R380). -/
def Core.spoilCopy (k : Core) (loc : Nat) : Core :=
  let sector := loc / 32 * 32
  { k with
    view := k.view.mapVals fun a v => if a / 32 = loc / 32 then { v with poison := true } else v,
    stores := k.stores.map fun st => if st.seq = 0 then { st with w := st.w.spoiled sector } else st,
    badCopy := (List.range 32).foldl (fun t i =>
      if (k.view.find? (sector + i)).isSome then t else AddrSet.set t (sector + i) true) k.badCopy }

/-- Poison the copy of a sector in one core's L1, or in its die's L2, where a free bit for each core of the die decides whether the core
has what it sees of the line from there (DESIGN CHOICE, log entry 84). The home keeps its own data, and no view entry is made. Groups
of those cores whose read set holds the line are to take a UE abort (R308). -/
def State.spoilCopy (s : State) (n loc : Nat) : State :=
  let (q, s) := if n < 512 then (0, s) else s.draw
  let on (c : Nat) : Bool := if n < 512 then c == n else c / 128 == (n - 512) / 32 % 4 && q.testBit (c % 128)
  { s with
    cores := s.cores.mapVals fun c k => if on c then k.spoilCopy loc else k,
    groups := s.groups.mapVals fun _ x => if on x.core then x.meetPoison (loc / 32 * 32) 32 else x }

/-- Poison what a scrub cannot correct. In a domain's frame it is a line of the domain, or its directory entry or count: then the
line is immortal with the count that it had, and the management cores are told (R298; DESIGN CHOICE, log entry 88). A free value names
it, since where a line stands is not architectural
(DESIGN CHOICE, log entry 38). Register storage is met before the group's next instruction (R338), and tiles and result queues are storage
of their own (R377; DESIGN CHOICE, log entry 15). -/
def State.spoil (s : State) (loc : Nat) : State :=
  let mark (n : Nat) (b : MByte) : MByte := if n / 32 = loc % 128 / 32 then { b with poison := true } else b
  if copyKey 0 0 ≤ loc then s.spoilCopy ((loc - copyKey 0 0) / 0x100000000000000) (loc % 0x100000000000000)
  else if resultKey 0 0 0 ≤ loc then s.spoilQueue (loc - resultKey 0 0 0)
  else if tileKey 0 0 0 ≤ loc then s.spoilTile (loc - tileKey 0 0 0)
  else if registerKey 0 0 ≤ loc then
    let g := (loc - registerKey 0 0) / 64
    let x := s.group g
    -- the storage of a scalar register kills every lane that is live when the error is met (R338)
    let lanes : Mask := if loc % 64 < 32 then laneBit (loc % 64) else BitVec.allOnes 32
    if x.retired then s else s.setGroup g { x with upset := x.upset ||| lanes }
  else match (if loc < 0x8000000000 then
      List.find? (fun (_, d) => d.frames.contains (loc / 0x200000 * 0x200000)) s.domains else none) with
    | some (i, d) =>
      let (q, s) := s.draw
      match d.lines[q / 2 % max 1 d.lines.length]? with
      | some l =>
        if q % 2 = 0 then s.modDomain i fun d => d.setLine { l with bytes := l.bytes.mapIdx mark }
        else (s.modDomain i fun d => d.setLine { l with immortal := true }).report 0 "directory entry poisoned" [i]
      | none => s
    | none => s.spoilSector loc

/-- The cluster whose SRAM holds a scratchpad, B-store, register, tile or queue location, or a copy in L1 or L2. -/
def State.sramCluster (s : State) (loc : Nat) : Nat :=
  if copyKey 0 0 ≤ loc then
    let n := (loc - copyKey 0 0) / 0x100000000000000
    if n < 512 then clusterOf n else (n - 512) % 128
  else if resultKey 0 0 0 ≤ loc then clusterOf (s.block ((loc - resultKey 0 0 0) / 0x10000000000000000 / 8)).core
  else if tileKey 0 0 0 ≤ loc then clusterOf (s.block ((loc - tileKey 0 0 0) / 2048)).core
  else if registerKey 0 0 ≤ loc then clusterOf (s.group ((loc - registerKey 0 0) / 64)).core
  else if bstoreKey 0 ≤ loc then (loc - bstoreKey 0) / 0x800000 else clusterOf (s.block (loc / 0x10000000000000 - 1)).core

/-- The counter of an error at a location: `off` 0 corrected, 8 uncorrectable (R381). -/
def State.errorCounter (s : State) (loc off : Nat) : Nat :=
  if nearKey loc then clusterCounter (s.sramCluster loc) off
  else stackCounter (homeStack (((Tab.find? s.frames (frameGroup loc)).getD 0) &&& 3).toNat loc) off

/-- Whether a location of memory lies in a frame group that is not live, which is not scrubbed and raises no ECC error (R161, R380). -/
def State.notLive (s : State) (loc : Nat) : Bool :=
  decide (loc < 0x8000000000) && ((Tab.find? s.frames (frameGroup loc)).getD 0).getLsbD 2

/-- Count a corrected error, which changes nothing else (R378): the 17th of a 2 MiB frame in 24 hours is reported (R382). -/
def State.corrected (s : State) (loc : Nat) : State :=
  let s := s.tally (s.errorCounter loc 0) 1
  if nearKey loc then s
  else
    let n := Tab.get 0 s.frameErrors (loc / 0x200000) + 1
    let s := { s with frameErrors := s.frameErrors.put (loc / 0x200000) n }
    if n = 17 then s.report 0 "frame errors" [loc / 0x200000] else s

/-- SCRUB (R378 to R382): the errors at the locations `fixed` are corrected, those at `bad` poisoned, and a pass over a stack, if
`stack` names one, is counted. Whether a frame's count starts anew, after 24 hours, is a free value (DESIGN CHOICE, log entry 29). -/
def execScrub (stack : Nat) (fixed bad : List Nat) (s : State) : Out :=
  let (q, s) := if fixed.isEmpty then (0, s) else s.draw
  let s := if q % 2 = 1 then { s with frameErrors := [] } else s
  let s := (fixed.filter fun a => !s.notLive a).foldl (fun s a => s.corrected a) s
  let s := (bad.filter fun a => !s.notLive a).foldl (fun s a => (s.spoil a).tally (s.errorCounter a 8) 1) s
  .next (if stack < 8 then s.tally (stackCounter stack 0x18) 1 else s)

/-! ### Management cores, memory timing and power (R22, R395, R396) -/

/-- MALLET_CORE_FAILOVER (R22): another core takes the duties over; a die without one is reported, by its
number, and takes no launches. -/
def execMalletCoreFailover (m : Nat) (s : State) : Out :=
  if 16 ≤ m ∨ s.mallets.contains m then .next s
  else
    let s := { s with mallets := m :: s.mallets }
    .next (if s.dieManaged (m / 4) then s else s.report 2 "die without a management core" [m / 4])

/-- PHY_RECALIBRATION (R395): accesses to the stack only wait. -/
def execPhyRecalibration (_stack : Nat) (s : State) : Out := .next s

/-- POWER_ARBITER_TICK (R29, R396, R397): each cluster's clock between 1.1 and 3.3 GHz; a die above 105 degrees is held to 1.1
GHz. Which hot dies have cooled, and the mean power that DRAW takes, are free values (DESIGN CHOICE, log entry 37). -/
def execPowerArbiterTick (clocks : List Nat) (s : State) : Out :=
  let (q, s) := s.draw
  let (w, s) := s.draw
  let hot := s.hotDies.filter fun d => !q.testBit d
  let s := { s with hotDies := hot,
                    pbudget := (s.pbudget &&& 0xFFFF) ||| BitVec.ofNat 64 (w % 65536 * 2 ^ 32) }
  .next ((List.range 128).foldl (fun s c =>
    match clocks[c]? with
    | none => s
    | some x => s.modCluster c fun k => { k with clock := if hot.contains (c / 32) then 11 else max 11 (min 33 x) }) s)

/-- THERMAL_LIMIT (R396): a die above 105 degrees is held to 1.1 GHz. -/
def execThermalLimit (die : Nat) (s : State) : Out :=
  let s := { s with hotDies := if s.hotDies.contains die then s.hotDies else die :: s.hotDies }
  .next ((List.range 32).foldl (fun s i => s.modCluster (32 * die + i) fun k => { k with clock := 11 }) s)

/-! ### Boot (R390 to R394) -/

/-- Whether a step takes its alternate on boot `n` (R394): its last record is STARTED or FAILED, be it the alternate's, and at most 8 boots
old. That the alternate has been DONE on boots since does not end the 8 (DEDUCED, log entry 36). -/
def takesAlternate (js : List Journal) (n step : Nat) : Bool :=
  match (js.filter fun j => j.step == step && !(j.alt && j.outcome == 1)).getLast? with
  | some j => j.outcome != 1 && decide (n ≤ j.boot + 8)
  | none => false

/-- Write a record into the ring of 4,096 (R392), with the outcome that the step comes to (R394). -/
def noteStep (js : List Journal) (j : Journal) : List Journal :=
  let js := js ++ [j]
  js.drop (js.length - 4096)

/-- The machine as a boot finds it: what persists, and everything else as at reset. The vector of a boot stop has to persist, since
no command can set it before the boot that it reports (R394; DEDUCED, log entry 35). -/
def State.restart (s : State) : State :=
  { State.reset with inputs := s.inputs, free := s.free, keys := s.keys, kernelCounter := s.kernelCounter,
                     firmwareCounter := s.firmwareCounter, nonce := s.nonce, journal := s.journal, fuses := s.fuses,
                     bootCount := s.bootCount + 1, routes := s.routes, fwSlot := s.fwSlot, fwVersions := s.fwVersions, pkg := s.pkg,
                     ports := [] }

/-- What a successful boot step does (R393). Training, calibration and memory tests change only rates; where an alternate
takes parts away, which parts is a free value (DESIGN CHOICE, log entry 37). -/
def State.bootStep (s : State) (step : Nat) (alt : Bool) : State :=
  if step = 1 then { s with fwSlot := alt }
  else if step = 2 then
    if !alt then { s with mallets := [] }
    else
      let (q, s) := s.draw
      -- on each die at least the core that the value names works
      { s with mallets := (List.range 16).filter fun m => q.testBit m && m % 4 != q / 2 ^ (16 + 2 * (m / 4)) % 4 }
  else if step = 5 then
    let (q, s) := s.draw
    { s with
      cores := (List.range 512).map fun c =>
        (c, { lmap := wholeHalves (Config.fusedLmap c &&& ~~~(Tab.get 0 s.fuses c)) }),
      clusters := (List.range 128).map fun c =>
        let dead := (List.range 4).all fun i =>
          coreClass (wholeHalves (Config.fusedLmap (4 * c + i) &&& ~~~(Tab.get 0 s.fuses (4 * c + i)))) == 15
        (c, { inService := !dead && !(alt && q.testBit c) }) }
  else if step = 6 then
    let (q, s) := s.draw
    { s with ports := (List.range 24).map fun i =>
        (i, { Tab.get {} s.ports i with lanes := if alt && q.testBit i then 4 else 8 }) }
  else s

/-- Whether a step's image may start (R391): only step 1 has one. -/
def State.imageFresh (s : State) (step : Nat) (alt : Bool) : Bool :=
  step != 1 || decide (s.firmwareCounter ≤ if alt then s.fwVersions.2 else s.fwVersions.1)

/-- Run the boot steps from one on (R393, R394). `hang` is the step that overruns, if any: its record stays at STARTED. A
primary that fails ends this boot, and an alternate that fails stops the boot (DEDUCED, log entry 36). -/
def State.bootFrom (s : State) (tries : List BootTry) (hang : Option Nat) : List Nat → State
  | [] => { s with booted := true }
  | step :: rest =>
    let alt := takesAlternate s.journal s.bootCount step
    let note (o : Nat) : State := { s with journal := noteStep s.journal ⟨step, s.bootCount, o, alt⟩ }
    if hang = some step then note 0
    else
      let t := (tries[step - 1]?).getD ⟨true, true⟩
      if (if alt then t.alternateOk else t.primaryOk) && s.imageFresh step alt then
        ((note 1).bootStep step alt).bootFrom tries hang rest
      else if !alt then note 2
      else
        let s := { note 2 with stopReported := decide (7 < step) }
        -- step 7 trains the PCIe link over which the stop is reported
        if 7 < step then s.report 3 "boot stopped" [step] else s

/-- BOOT (R392 to R394): the eight steps in order. -/
def execBoot (tries : List BootTry) (s : State) : Out :=
  .next (s.restart.bootFrom tries none [1, 2, 3, 4, 5, 6, 7, 8])

/-- BOOT_STEP_TIMEOUT (R393): a boot whose step overruns resets the management cores. -/
def execBootStepTimeout (step : Nat) (s : State) : Out :=
  .next (s.restart.bootFrom [] (some step) [1, 2, 3, 4, 5, 6, 7, 8])

/-! ### The memory path (R168, R324) -/

/-- RELEASE_COMPLETE (R168): the oldest release of a core completes. -/
def execReleaseComplete (core : Nat) (s : State) : Out := .next (s.completeRelease core)

/-- STORE_ENTERS_VIEW (R324): the oldest gated store of a group enters its core's view. -/
def execStoreEntersView (grp : Nat) (s : State) : Out := .next (s.flushOne grp)

end Sys2Proof.Machine
end

