-- ==== Sys2Proof/Machine/Dispatch.lean ====
section
/-! DEFINITION. The dispatch: one arm per row of spec/opcode_table.json. -/

namespace Sys2Proof.Machine

def exec (i : Instr) (s : State) : Host.Outcome State Fault Refusal :=
  match i with
  | .iadd f => Sys2Proof.Machine.execIadd f s
  | .isub f => Sys2Proof.Machine.execIsub f s
  | .imul f => Sys2Proof.Machine.execImul f s
  | .imulhi f => Sys2Proof.Machine.execImulhi f s
  | .imad f => Sys2Proof.Machine.execImad f s
  | .imin f => Sys2Proof.Machine.execImin f s
  | .imax f => Sys2Proof.Machine.execImax f s
  | .iabs f => Sys2Proof.Machine.execIabs f s
  | .and f => Sys2Proof.Machine.execAnd f s
  | .or f => Sys2Proof.Machine.execOr f s
  | .xor f => Sys2Proof.Machine.execXor f s
  | .andn f => Sys2Proof.Machine.execAndn f s
  | .shl f => Sys2Proof.Machine.execShl f s
  | .shr f => Sys2Proof.Machine.execShr f s
  | .sar f => Sys2Proof.Machine.execSar f s
  | .rot f => Sys2Proof.Machine.execRot f s
  | .popc f => Sys2Proof.Machine.execPopc f s
  | .clz f => Sys2Proof.Machine.execClz f s
  | .brev f => Sys2Proof.Machine.execBrev f s
  | .bfe f => Sys2Proof.Machine.execBfe f s
  | .bfi f => Sys2Proof.Machine.execBfi f s
  | .icmp f => Sys2Proof.Machine.execIcmp f s
  | .sel f => Sys2Proof.Machine.execSel f s
  | .mov f => Sys2Proof.Machine.execMov f s
  | .movi f => Sys2Proof.Machine.execMovi f s
  | .lea f => Sys2Proof.Machine.execLea f s
  | .iaddc f => Sys2Proof.Machine.execIaddc f s
  | .pset f => Sys2Proof.Machine.execPset f s
  | .dp4 f => Sys2Proof.Machine.execDp4 f s
  | .isad f => Sys2Proof.Machine.execIsad f s
  | .fadd f => Sys2Proof.Machine.execFadd f s
  | .fsub f => Sys2Proof.Machine.execFsub f s
  | .fmul f => Sys2Proof.Machine.execFmul f s
  | .ffma f => Sys2Proof.Machine.execFfma f s
  | .fmin f => Sys2Proof.Machine.execFmin f s
  | .fmax f => Sys2Proof.Machine.execFmax f s
  | .frcp f => Sys2Proof.Machine.execFrcp f s
  | .frsq f => Sys2Proof.Machine.execFrsq f s
  | .fsqrt f => Sys2Proof.Machine.execFsqrt f s
  | .fex2 f => Sys2Proof.Machine.execFex2 f s
  | .flg2 f => Sys2Proof.Machine.execFlg2 f s
  | .fsin f => Sys2Proof.Machine.execFsin f s
  | .fcos f => Sys2Proof.Machine.execFcos f s
  | .ftanh f => Sys2Proof.Machine.execFtanh f s
  | .fcmp f => Sys2Proof.Machine.execFcmp f s
  | .fclass f => Sys2Proof.Machine.execFclass f s
  | .frnd f => Sys2Proof.Machine.execFrnd f s
  | .cvt f => Sys2Proof.Machine.execCvt f s
  | .fpack f => Sys2Proof.Machine.execFpack f s
  | .hpadd f => Sys2Proof.Machine.execHpadd f s
  | .hpmul f => Sys2Proof.Machine.execHpmul f s
  | .hpfma f => Sys2Proof.Machine.execHpfma f s
  | .add2 f => Sys2Proof.Machine.execAdd2 f s
  | .sub2 f => Sys2Proof.Machine.execSub2 f s
  | .max2 f => Sys2Proof.Machine.execMax2 f s
  | .min2 f => Sys2Proof.Machine.execMin2 f s
  | .sel2 f => Sys2Proof.Machine.execSel2 f s
  | .cmp2 f => Sys2Proof.Machine.execCmp2 f s
  | .shl2 f => Sys2Proof.Machine.execShl2 f s
  | .shr2 f => Sys2Proof.Machine.execShr2 f s
  | .shfl f => Sys2Proof.Machine.execShfl f s
  | .qswp f => Sys2Proof.Machine.execQswp f s
  | .qbcast f => Sys2Proof.Machine.execQbcast f s
  | .vote f => Sys2Proof.Machine.execVote f s
  | .gred f => Sys2Proof.Machine.execGred f s
  | .gscan f => Sys2Proof.Machine.execGscan f s
  | .lget f => Sys2Proof.Machine.execLget f s
  | .lput f => Sys2Proof.Machine.execLput f s
  | .matchOp f => Sys2Proof.Machine.execMatchOp f s
  | .bra f => Sys2Proof.Machine.execBra f s
  | .brx f => Sys2Proof.Machine.execBrx f s
  | .call f => Sys2Proof.Machine.execCall f s
  | .callx f => Sys2Proof.Machine.execCallx f s
  | .ret f => Sys2Proof.Machine.execRet f s
  | .endOp f => Sys2Proof.Machine.execEndOp f s
  | .spawn f => Sys2Proof.Machine.execSpawn f s
  | .yield f => Sys2Proof.Machine.execYield f s
  | .nop f => Sys2Proof.Machine.execNop f s
  | .trap f => Sys2Proof.Machine.execTrap f s
  | .bkpt f => Sys2Proof.Machine.execBkpt f s
  | .npbeg f => Sys2Proof.Machine.execNpbeg f s
  | .npend f => Sys2Proof.Machine.execNpend f s
  | .ld f => Sys2Proof.Machine.execLd f s
  | .st f => Sys2Proof.Machine.execSt f s
  | .lds f => Sys2Proof.Machine.execLds f s
  | .sts f => Sys2Proof.Machine.execSts f s
  | .ldc f => Sys2Proof.Machine.execLdc f s
  | .ldp f => Sys2Proof.Machine.execLdp f s
  | .stp f => Sys2Proof.Machine.execStp f s
  | .pref f => Sys2Proof.Machine.execPref f s
  | .evict f => Sys2Proof.Machine.execEvict f s
  | .fence f => Sys2Proof.Machine.execFence f s
  | .atom f => Sys2Proof.Machine.execAtom f s
  | .atoms f => Sys2Proof.Machine.execAtoms f s
  | .atomp f => Sys2Proof.Machine.execAtomp f s
  | .acas f => Sys2Proof.Machine.execAcas f s
  | .acass f => Sys2Proof.Machine.execAcass f s
  | .red f => Sys2Proof.Machine.execRed f s
  | .reds f => Sys2Proof.Machine.execReds f s
  | .barv f => Sys2Proof.Machine.execBarv f s
  | .barw f => Sys2Proof.Machine.execBarw f s
  | .bars f => Sys2Proof.Machine.execBars f s
  | .barq f => Sys2Proof.Machine.execBarq f s
  | .waitc f => Sys2Proof.Machine.execWaitc f s
  | .cpy f => Sys2Proof.Machine.execCpy f s
  | .cpyx f => Sys2Proof.Machine.execCpyx f s
  | .cpya f => Sys2Proof.Machine.execCpya f s
  | .cpyd f => Sys2Proof.Machine.execCpyd f s
  | .chcfg f => Sys2Proof.Machine.execChcfg f s
  | .wmark f => Sys2Proof.Machine.execWmark f s
  | .yieldc f => Sys2Proof.Machine.execYieldc f s
  | .fsend f => Sys2Proof.Machine.execFsend f s
  | .spred f => Sys2Proof.Machine.execSpred f s
  | .mma f => Sys2Proof.Machine.execMma f s
  | .tzero f => Sys2Proof.Machine.execTzero f s
  | .tload f => Sys2Proof.Machine.execTload f s
  | .tdrain f => Sys2Proof.Machine.execTdrain f s
  | .qpop f => Sys2Proof.Machine.execQpop f s
  | .qstore f => Sys2Proof.Machine.execQstore f s
  | .qsend f => Sys2Proof.Machine.execQsend f s
  | .qstat f => Sys2Proof.Machine.execQstat f s
  | .nput f => Sys2Proof.Machine.execNput f s
  | .nhash f => Sys2Proof.Machine.execNhash f s
  | .nget f => Sys2Proof.Machine.execNget f s
  | .nroot f => Sys2Proof.Machine.execNroot f s
  | .nswap f => Sys2Proof.Machine.execNswap f s
  | .npin f => Sys2Proof.Machine.execNpin f s
  | .nunpin f => Sys2Proof.Machine.execNunpin f s
  | .nbind f => Sys2Proof.Machine.execNbind f s
  | .nunbind f => Sys2Proof.Machine.execNunbind f s
  | .ncopy f => Sys2Proof.Machine.execNcopy f s
  | .nstat f => Sys2Proof.Machine.execNstat f s
  | .tryOp f => Sys2Proof.Machine.execTryOp f s
  | .commit f => Sys2Proof.Machine.execCommit f s
  | .abort f => Sys2Proof.Machine.execAbort f s
  | .tstat f => Sys2Proof.Machine.execTstat f s
  | .sget f => Sys2Proof.Machine.execSget f s
  | .sset f => Sys2Proof.Machine.execSset f s
  | .rte f => Sys2Proof.Machine.execRte f s
  | .rteSkip f => Sys2Proof.Machine.execRteSkip f s
  | .rteEnd f => Sys2Proof.Machine.execRteEnd f s
  | .rteAbort f => Sys2Proof.Machine.execRteAbort f s
  | .perf f => Sys2Proof.Machine.execPerf f s
  | .dbgLog f => Sys2Proof.Machine.execDbgLog f s
  | .dbgHalt f => Sys2Proof.Machine.execDbgHalt f s
  | .kick fn q value => Sys2Proof.Machine.execKick fn q value s
  | .schedulingTick => Sys2Proof.Machine.execSchedulingTick s
  | .launchFetch ctx q => Sys2Proof.Machine.execLaunchFetch ctx q s
  | .launchWaitPoll launch => Sys2Proof.Machine.execLaunchWaitPoll launch s
  | .translationComplete tr => Sys2Proof.Machine.execTranslationComplete tr s
  | .peerTranslationTimeout tr => Sys2Proof.Machine.execPeerTranslationTimeout tr s
  | .reoptimise tr => Sys2Proof.Machine.execReoptimise tr s
  | .blockPlace launch => Sys2Proof.Machine.execBlockPlace launch s
  | .blockRetire block => Sys2Proof.Machine.execBlockRetire block s
  | .gridComplete launch => Sys2Proof.Machine.execGridComplete launch s
  | .barrierPhaseComplete bar => Sys2Proof.Machine.execBarrierPhaseComplete bar s
  | .waitcResume grp => Sys2Proof.Machine.execWaitcResume grp s
  | .yieldResume grp => Sys2Proof.Machine.execYieldResume grp s
  | .yieldcResume grp => Sys2Proof.Machine.execYieldcResume grp s
  | .chcfgResume grp => Sys2Proof.Machine.execChcfgResume grp s
  | .endEngineJoin grp => Sys2Proof.Machine.execEndEngineJoin grp s
  | .watermarkWaitEnd grp => Sys2Proof.Machine.execWatermarkWaitEnd grp s
  | .copyOperationStart block ch => Sys2Proof.Machine.execCopyOperationStart block ch s
  | .copyOperationComplete op => Sys2Proof.Machine.execCopyOperationComplete op s
  | .arrayCommandStart cluster => Sys2Proof.Machine.execArrayCommandStart cluster s
  | .arrayCommandComplete cluster => Sys2Proof.Machine.execArrayCommandComplete cluster s
  | .qpopElementsReady grp => Sys2Proof.Machine.execQpopElementsReady grp s
  | .reclaim child => Sys2Proof.Machine.execReclaim child s
  | .speculationConflict grp => Sys2Proof.Machine.execSpeculationConflict grp s
  | .pageServiceResolve grp pteAddr pte => Sys2Proof.Machine.execPageServiceResolve grp pteAddr pte s
  | .pageServiceUnresolvable grp => Sys2Proof.Machine.execPageServiceUnresolvable grp s
  | .faultStallTimeout core => Sys2Proof.Machine.execFaultStallTimeout core s
  | .nopreemptOverrun grp => Sys2Proof.Machine.execNopreemptOverrun grp s
  | .preemptionRequest cluster => Sys2Proof.Machine.execPreemptionRequest cluster s
  | .preemption cluster => Sys2Proof.Machine.execPreemption cluster s
  | .unitResume unit => Sys2Proof.Machine.execUnitResume unit s
  | .timeSliceExpiry ctx => Sys2Proof.Machine.execTimeSliceExpiry ctx s
  | .coreDrain core why => Sys2Proof.Machine.execCoreDrain core why s
  | .laneFuse core lane => Sys2Proof.Machine.execLaneFuse core lane s
  | .inFieldTest cluster => Sys2Proof.Machine.execInFieldTest cluster s
  | .inFieldTestEnd cluster outcome => Sys2Proof.Machine.execInFieldTestEnd cluster outcome s
  | .scrub stack fixed bad => Sys2Proof.Machine.execScrub stack fixed bad s
  | .phyRecalibration stack => Sys2Proof.Machine.execPhyRecalibration stack s
  | .powerArbiterTick clocks => Sys2Proof.Machine.execPowerArbiterTick clocks s
  | .malletCoreFailover mallet => Sys2Proof.Machine.execMalletCoreFailover mallet s
  | .boot tries => Sys2Proof.Machine.execBoot tries s
  | .bootStepTimeout step => Sys2Proof.Machine.execBootStepTimeout step s
  | .functionLevelReset fn => Sys2Proof.Machine.execFunctionLevelReset fn s
  | .ctxCreate c => Sys2Proof.Machine.execCtxCreate c s
  | .ctxDestroy c => Sys2Proof.Machine.execCtxDestroy c s
  | .ctxSet c => Sys2Proof.Machine.execCtxSet c s
  | .ctxRedundant c => Sys2Proof.Machine.execCtxRedundant c s
  | .queueEnable c => Sys2Proof.Machine.execQueueEnable c s
  | .queueDisable c => Sys2Proof.Machine.execQueueDisable c s
  | .queueClearErr c => Sys2Proof.Machine.execQueueClearErr c s
  | .tlbInval c => Sys2Proof.Machine.execTlbInval c s
  | .fgSet c => Sys2Proof.Machine.execFgSet c s
  | .domainCreate c => Sys2Proof.Machine.execDomainCreate c s
  | .domainGrow c => Sys2Proof.Machine.execDomainGrow c s
  | .domainDestroy c => Sys2Proof.Machine.execDomainDestroy c s
  | .trdomSet c => Sys2Proof.Machine.execTrdomSet c s
  | .sliceTable c => Sys2Proof.Machine.execSliceTable c s
  | .sliceAbort c => Sys2Proof.Machine.execSliceAbort c s
  | .keyAdd c => Sys2Proof.Machine.execKeyAdd c s
  | .keyRemove c => Sys2Proof.Machine.execKeyRemove c s
  | .counterSet c => Sys2Proof.Machine.execCounterSet c s
  | .fwLoad c => Sys2Proof.Machine.execFwLoad c s
  | .dbgAttach c => Sys2Proof.Machine.execDbgAttach c s
  | .dbgDetach c => Sys2Proof.Machine.execDbgDetach c s
  | .dbgResume c => Sys2Proof.Machine.execDbgResume c s
  | .sideRead c => Sys2Proof.Machine.execSideRead c s
  | .eventRoute c => Sys2Proof.Machine.execEventRoute c s
  | .clusterTest c outcome => Sys2Proof.Machine.execClusterTest c outcome s
  | .pbudgetWrite value => Sys2Proof.Machine.execPbudgetWrite value s
  | .registerWrite offset value => Sys2Proof.Machine.execRegisterWrite offset value s
  | .packetReceive port p => Sys2Proof.Machine.execPacketReceive port p s
  | .acknowledgementReceive port vl seq => Sys2Proof.Machine.execAcknowledgementReceive port vl seq s
  | .negativeAcknowledgement port vl seq reason => Sys2Proof.Machine.execNegativeAcknowledgement port vl seq reason s
  | .replayBackoffExpiry port vl => Sys2Proof.Machine.execReplayBackoffExpiry port vl s
  | .linkAckTimeout port vl => Sys2Proof.Machine.execLinkAckTimeout port vl s
  | .portRetrain port => Sys2Proof.Machine.execPortRetrain port s
  | .switchMerge p => Sys2Proof.Machine.execSwitchMerge p s
  | .mergeFlushInterval entry => Sys2Proof.Machine.execMergeFlushInterval entry s
  | .sliceEnd gang => Sys2Proof.Machine.execSliceEnd gang s
  | .gangReady gang slice member => Sys2Proof.Machine.execGangReady gang slice member s
  | .gangRunning gang slice member => Sys2Proof.Machine.execGangRunning gang slice member s
  | .gangSliceTimeout gang => Sys2Proof.Machine.execGangSliceTimeout gang s
  | .thermalLimit die => Sys2Proof.Machine.execThermalLimit die s
  | .releaseComplete core => Sys2Proof.Machine.execReleaseComplete core s
  | .storeEntersView grp => Sys2Proof.Machine.execStoreEntersView grp s
  | .reservedCommand code c => Sys2Proof.Machine.execReservedCommand code c s
  | .msiXUnmask fn vec => Sys2Proof.Machine.execMsiXUnmask fn vec s
  | .srIovEnable on => Sys2Proof.Machine.execSrIovEnable on s
  | .journalClear step => Sys2Proof.Machine.execJournalClear step s

end Sys2Proof.Machine
end

