-- ==== Sys2Proof/Machine/Sched.lean ====
section
/-! DEFINITION. What may happen next: the ready groups and the internal events of the package, one of which a step takes
(R12, R134, R135, R147, R332, R340). -/

namespace Sys2Proof.Machine

/-- One thing that may happen next. -/
inductive Move
  /-- the oldest input arrives (DESIGN CHOICE, log entry 6) -/
  | input
  /-- a ready group performs its next instruction -/
  | issue (g : Nat)
  /-- an internal event of the opcode table comes about -/
  | event (i : Instr)
  /-- a core's release publishes one of its stores (R168) -/
  | publish (core : Nat)
  /-- an engine operation moves one of its elements (R215) -/
  | element (op : Nat)
  /-- a matrix command reads one of its operand bytes (R265), or a drain pushes its next element (R260) -/
  | operand (op : Nat)
  /-- a freed line's child loses one reference (R279) -/
  | reclaim
  /-- the next lane of an atomic performs (R205) -/
  | lane (g : Nat)
  /-- a gang's slice is taken up or begins, or its contexts have been restored (R374) -/
  | gang (g : Nat)
  /-- a group has reached code that its core's class lacks (R332) -/
  | lack (g : Nat)
  deriving DecidableEq, Repr

/-- Whether a group may issue (R134, R332, R340). Once a pre-emption of its unit is to be taken issue stops, but for what groups
have still to take before they are saved (R316, R339), and while the unit keeps running for want of a save pool (R341) or for a
group that holds NP (R147). Else a page fault stalls its core. -/
def State.mayIssue (s : State) (x : Group) : Bool :=
  let cl := clusterOf x.core
  let k := s.cluster cl
  let bs := s.residentOn (s.unitClusters cl)
  if k.preempt && !k.poolWait && !s.npHeld bs then
    x.unsettled || (s.groupsIn bs).any fun (_, y) => y.unsettled && y.wait != .none && y.wait != .hold
  else (s.core x.core).stall.isEmpty

/-- Whether a core has native code of a group's launch, under its context's key (R328, R332). -/
def State.hasCode (s : State) (x : Group) : Bool :=
  s.codeReady (s.block x.block).launch x.core

/-- A group has reached native code that its core's class lacks (R332): its unit is to be swapped out while the translator works. -/
def State.lack (s : State) (g : Nat) : State :=
  let x := s.group g
  (s.startTrans (s.block x.block).launch).request (clusterOf x.core) true

/-- What one group may do: enter a gated store in its view, issue, or end a wait whose condition holds. -/
def State.groupMoves (s : State) (g : Nat) (x : Group) : List Move :=
  if x.retired || (s.block x.block).st != .resident then []
  else
    let store := if x.gated.isEmpty then [] else [Move.event (.storeEntersView g)]
    let go : List Move :=
      match x.wait with
      | .none | .hold => if s.mayIssue x then (if s.hasCode x then [.issue g] else [.lack g]) else []
      | .waitc f => if s.waitcMet g f then [.event (.waitcResume g)] else []
      | .yield => [.event (.yieldResume g)]
      | .lanes _ => [.lane g]
      | .yieldc c _ => if s.chanIdle x c then [.event (.yieldcResume g)] else []
      | .chcfg c => if s.chanIdle x c then [.event (.chcfgResume g)] else []
      | .endJoin => if (s.opsOf g).all fun (_, o) => o.st == .finished then [.event (.endEngineJoin g)] else []
      | .watermark on => if s.watermarkPassed x on then [.event (.watermarkWaitEnd g)] else []
      | .qpop q first _ _ _ =>
        if (s.rqueue x.block q).written first x.width then [.event (.qpopElementsReady g)] else []
      | .barrier _ _ _ _ | .page _ | .halt => []
    store ++ go

/-- What a block may do: start the next operation of a channel, or retire. -/
def State.blockMoves (s : State) (b : Nat) (x : Block) : List Move :=
  let starts : List Move :=
    if x.st == .saved then []
    else x.chans.filterMap fun (c, ch) =>
      if ch.queue.any fun o => (s.op o).st == .queued then some (.event (.copyOperationStart b c)) else none
  let retires : List Move :=
    if x.st == .retiring && !s.opsRunning b && (match x.rel with | some m => s.relDone m | none => true) then
      [.event (.blockRetire b)]
    else []
  starts ++ retires

/-- What an engine operation may do: move an element, read an operand byte or push an element of a drain, or complete. Matrix commands complete by cluster. -/
def State.opMoves (o : Nat) (e : EngOp) : List Move :=
  if e.st != .started || e.paging.isSome then []
  else if e.kind.tile.isSome then (match e.kind with | .mma .. | .tload .. | .tdrain .. => [.operand o] | _ => [])
  else if !e.todo.isEmpty then [.element o, .event (.copyOperationComplete o)]
  else if e.done then [.event (.copyOperationComplete o)]
  else []

/-- What a core's releases may do. -/
def State.coreMoves (c : Nat) (k : Core) : List Move :=
  if k.rels.isEmpty then [] else [.publish c, .event (.releaseComplete c)]

/-- What a cluster may do: start or complete a matrix command, have its unit saved, or begin a test that was deferred. -/
def State.clusterMoves (s : State) (cl : Nat) : List Move :=
  let k := s.cluster cl
  (if (s.nextArray cl).isSome then [Move.event (.arrayCommandStart cl)] else [])
    ++ (if (s.arrayRunning cl).isEmpty then [] else [Move.event (.arrayCommandComplete cl)])
    ++ (if k.preempt && !k.taken && !(s.blocksOnCluster cl).isEmpty && !s.npHeld (s.residentOn (s.unitClusters cl)) then [Move.event (.preemptionRequest cl)] else [])
    ++ (if s.preemptible cl then [Move.event (.preemption cl)] else [])
    ++ (if k.testDue && k.inService && !k.underTest && !s.testBlocked cl then [Move.event (.inFieldTest cl)] else [])

/-- What a launch may do. -/
def State.launchMoves (s : State) (l : Nat) (x : Launch) : List Move :=
  (if x.st == .waiting || x.st == .signalling then [Move.event (.launchWaitPoll l)] else [])
    ++ (if x.toPlace && s.previousPlacing l && s.gangOpen x.ctx then [Move.event (.blockPlace l)] else [])
    ++ (if s.gridRetired l && (match x.rels with | some ms => ms.all s.relDone | none => true) then
          [Move.event (.gridComplete l)] else [])

/-- What a user queue may do: its slot reads the next record. -/
def queueMoves (k : Nat) (x : UQueue) : List Move :=
  if x.slot.isSome && x.enabled && !x.err && x.rd != x.wr then [.event (.launchFetch (k / 512) (k % 512))] else []

/-- What a mailbox may do: the command in hand is tried again (R368). SLICE_ABORT has two operand words, and TLB_INVAL three. -/
def mailboxMoves (m : Mailbox) : List Move :=
  match m.waiting with
  | some (c, some o) => [.event (.clusterTest c o)]
  | some (c, none) => [.event (if c.nopw = 2 then .sliceAbort c else .tlbInval c)]
  | none => []

/-- Everything that may happen next (DESIGN CHOICE, log entry 11). -/
def State.moves (s : State) : List Move :=
  (if s.inputs.isEmpty then [] else [Move.input])
    ++ s.groups.flatMap (fun (g, x) => s.groupMoves g x)
    ++ s.blocks.flatMap (fun (b, x) => s.blockMoves b x)
    ++ s.barriers.flatMap (fun (k, _) => if s.phaseFull k then [Move.event (.barrierPhaseComplete k)] else [])
    ++ s.ops.flatMap (fun (o, e) => State.opMoves o e)
    ++ s.cores.flatMap (fun (c, k) => State.coreMoves c k)
    ++ s.clusters.flatMap (fun (c, _) => s.clusterMoves c)
    ++ s.launches.flatMap (fun (l, x) => s.launchMoves l x)
    ++ s.queues.flatMap (fun (k, x) => queueMoves k x)
    ++ s.trans.flatMap (fun (t, x) => if x.done then [] else [Move.event (.translationComplete t)])
    ++ s.units.flatMap (fun (u, _) => [Move.event (.unitResume u)])
    ++ s.gangs.flatMap (fun (g, _) => if s.gangStopped g || s.gangDue g || s.gangBegins g || s.gangRuns g then [Move.gang g] else [])
    ++ s.mailboxes.flatMap (fun (_, m) => mailboxMoves m)
    ++ (if s.domains.any fun (_, d) => !d.reclaim.isEmpty then [Move.reclaim] else [])

/-- The next move, if any: one is taken by the next free value when there are several. -/
def State.nextMove (s : State) : Option Move × State :=
  match s.moves with
  | [] => (none, s)
  | [m] => (some m, s)
  | m :: ms =>
    let (q, s') := s.draw
    (some (((m :: ms)[q % (ms.length + 1)]?).getD m), s')

end Sys2Proof.Machine
end

