-- ==== Sys2Proof/Machine/Step.lean ====
section
/-! DEFINITION. One step of the package: one ready group's boundary or instruction, one internal event, or one input (R12,
R21, R45); and the state in which the next step runs a given word. -/

namespace Sys2Proof.Machine

/-- Group `g` is the one that performs; a wait to be tried again is over. -/
def State.select (s : State) (g : Nat) : State :=
  let s := { s with cur := g }
  if s.grp.wait = .hold then s.waitHere .none else s

/-- The selected group performs what its boundary calls for, or else its next instruction. -/
def State.issue (s : State) : Host.Outcome State Fault Refusal :=
  match s.boundary with
  | some s' => .next s'
  | none =>
    match s.fetch with
    | .ok i => exec i (s.noteIssue i)
    | .error _ => .fault .undecodable

/-- Take the oldest input. Only events and commands arrive from outside: an instruction's word does not. -/
def State.takeInput (s : State) : Host.Outcome State Fault Refusal :=
  match s.inputs with
  | [] => .next s
  | i :: rest => if i.toRaw.isSome then .next { s with inputs := rest } else exec i { s with inputs := rest }

/-- Perform one move. -/
def State.move (s : State) (m : Move) : Host.Outcome State Fault Refusal :=
  match m with
  | .input => s.takeInput
  | .issue g => (s.select g).issue
  | .event i => exec i s
  | .publish c => .next (s.draw.2.publishOne c s.draw.1)
  | .element o => .next (s.draw.2.tryElem o s.draw.1)
  | .operand o => .next (s.draw.2.readOperand o s.draw.1)
  | .lane g => .next (s.laneMove g)
  | .lack g => .next (s.lack g)
  | .gang g => .next (s.gangStep g)
  | .reclaim => exec (.reclaim s.draw.1) s.draw.2

/-- One step of the package: one of the moves that are possible, or none when nothing can happen. -/
def step (s : State) : Host.Outcome State Fault Refusal :=
  match s.nextMove with
  | (none, s') => .next s'
  | (some m, s') => s'.move m

/-! ### Placing a word (DESIGN CHOICE, log entry 19) -/

/-- The kernel whose code is one instruction's words and an END. -/
def wordKernel (w : Nat) : Kernel :=
  let w0 : DWord := BitVec.ofNat 64 w
  let code := if w0.getLsbD 50 then [w0, BitVec.ofNat 64 (w / 2 ^ 64)] else [w0]
  { code := code ++ [0x65F0000000000000], entries := [⟨0, 0⟩], tiles := 16 }

/-- The group that performs the placed word: 32 active lanes at the start of the kernel. -/
def wordGroup : Group :=
  { th := { exec := 0xFFFFFFFF, live := 0xFFFFFFFF, strand := 0xFFFFFFFF } }

/-- The state in which the next step performs the instruction with the bits `w`: a launch of a kernel that consists of it,
with one block and one group, and nothing else that could happen. -/
def State.withFetchWord (s : State) (nbits w : Nat) : State :=
  { s with
    cur := 0, inputs := [], groups := [(0, wordGroup)],
    blocks := [(0, { groups := [0] })],
    launches := [(0, { st := .running, kernel := wordKernel (w % 2 ^ nbits), record := [0, 0x0000000100000001, 0x100000001],
                       clusters := [0], placed := 1 })],
    contexts := [(0, {})], queues := [], cores := [(0, { lmap := 0xFFFFFFFFFFFFFFFF })], clusters := [(0, {})],
    barriers := ((List.range 16).map fun n => (barrierKey 1 0 n, newBarrier [0]))
      ++ (List.range 4).map fun n => (barrierKey 2 0 n, newBarrier [0]),
    ops := [], units := [], domains := [], gangs := [], mailboxes := s.mailboxes.mapVals fun _ m => { m with waiting := none },
    trans := [(0, { digest := [], cls := 0, keep := false, version := 0, dom := 0, done := true, asking := false, generation := 0 })] }

end Sys2Proof.Machine
end

