-- ==== Sys2Proof/Safety.lean ====
section
/-! DEFINITION. The terms of the claims: what a completed instruction leaves, what a write of a register leaves, the
invariant of every state, and a safe run. -/

namespace Sys2Proof.Machine

/-! ### Runs -/

/-- The invariant of every state: the memory is in its canonical form. -/
def State.Inv (s : State) : Prop := Memory.wf s.mem = true

/-- A run of `n` steps is safe when it meets no fault and no refusal. -/
def SafeRun (n : Nat) (s : State) : Prop := ∃ t, Sys2Proof.core.run n s = .next t

/-! ### Approximations -/

/-- `r` is an FP32 value between lo * 2^q and hi * 2^q, where there is one: its place in the order of R90 is between those of the
least and the greatest value there. -/
def InInterval (r : Nat) (lo hi q : Int) : Prop :=
  keyAbove lo q ≤ keyBelow hi q → r < 2 ^ 32 ∧ keyAbove lo q ≤ fmtF32.key r ∧ fmtF32.key r ≤ keyBelow hi q

/-! ### Completion -/

/-- The state after the executing group has completed an instruction of `n` bytes that leaves it the registers `r`: its PC
has moved on, a virtual instruction outside a handler is counted (R349), and nothing else has changed. -/
def State.went (s : State) (n : Nat) (r : Regs) : State :=
  s.setGrp { s.grp.completed with th := { s.th with pc := s.th.pc + n, regs := r } }

/-- The registers after a vector write of `w` bits in the lanes of a mask: the register, or the pair, takes the values of
`g`; v16383 takes nothing, and every other register and lane keeps its value (R10, R35, R43). -/
def WroteVec (r r' : Regs) (d w : Nat) (act : Mask) (g : Nat → Nat) : Prop :=
  r'.s = r.s ∧ r'.p = r.p ∧ ∀ i l, l < 32 →
    r'.vec i l =
      if d = 16383 ∨ i = 16383 ∨ act.getLsbD l = false then r.vec i l
      else if i = d then BitVec.ofNat 32 (g l)
      else if w = 64 ∧ i = d + 1 then BitVec.ofNat 32 (g l / 2 ^ 32)
      else r.vec i l

/-- The registers after a scalar write: s16383 takes nothing (R35). -/
def WroteScal (r r' : Regs) (d : Nat) (x : DWord) : Prop :=
  r'.v = r.v ∧ r'.p = r.p ∧ ∀ i, r'.scal i = if i = d ∧ i ≠ 16383 then x else r.scal i

/-- The registers after a predicate write in the lanes of a mask: p15 takes nothing (R35). -/
def WrotePred (r r' : Regs) (d : Nat) (act : Mask) (g : Nat → Bool) : Prop :=
  r'.v = r.v ∧ r'.s = r.s ∧ ∀ i l, l < 32 →
    (r'.pred i).getLsbD l = if i = d ∧ i ≠ 15 ∧ act.getLsbD l = true then g l else (r.pred i).getLsbD l

/-- Registers rolled back to a checkpoint in some lanes, and the scalars only when `all` lanes go back (R310). -/
def RolledBack (ck : Regs) (lanes : Mask) (all : Bool) (r r' : Regs) : Prop :=
  (∀ i l, l < 32 → r'.vec i l = if lanes.getLsbD l = true then ck.vec i l else r.vec i l)
  ∧ (∀ i, r'.scal i = if all then ck.scal i else r.scal i)
  ∧ ∀ i, i < 16 → r'.pred i = (r.pred i &&& ~~~lanes) ||| (ck.pred i &&& lanes)

/-- An arithmetic entry completes with the value `g` of its operands and the lane: nothing is written without an active
lane (R8); the uniform form writes one scalar (R43). -/
def AluDone (i : Instr) (f : Alu) (w : Nat) (s : State) (g : Env → Nat → Nat) : Prop :=
  ∃ r, exec i s = .next (s.went (ilen f.ext) r) ∧
    if s.th.act f.guard = 0 then r = s.th.regs
    else if f.u then WroteScal s.th.regs r f.d.toNat (BitVec.ofNat 64 (g s.env 0))
    else WroteVec s.th.regs r f.d.toNat w (s.th.act f.guard) (g s.env)

/-- As `AluDone`, for an entry that writes a predicate, or 1 or 0 to a scalar in the uniform form (R69). -/
def PredDone (i : Instr) (f : Alu) (s : State) (g : Env → Nat → Bool) : Prop :=
  ∃ r, exec i s = .next (s.went (ilen f.ext) r) ∧
    if s.th.act f.guard = 0 then r = s.th.regs
    else if f.u then WroteScal s.th.regs r f.d.toNat (if g s.env 0 then 1 else 0)
    else WrotePred s.th.regs r f.d.toNat (s.th.act f.guard) (g s.env)

/-- An entry completes and writes vector register or pair `d` in its active lanes. -/
def VecDone (i : Instr) (gd : Guard) (n d w : Nat) (s : State) (g : Nat → Nat) : Prop :=
  ∃ r, exec i s = .next (s.went n r) ∧
    if s.th.act gd = 0 then r = s.th.regs else WroteVec s.th.regs r d w (s.th.act gd) g

/-- An entry completes and writes scalar register `d` when the group has an active lane. -/
def ScalDone (i : Instr) (gd : Guard) (n d : Nat) (s : State) (x : DWord) : Prop :=
  ∃ r, exec i s = .next (s.went n r) ∧ if s.th.act gd = 0 then r = s.th.regs else WroteScal s.th.regs r d x

/-- Every access of some lanes passes its checks, with targets `ts`, and none of them has to wait for a watermark (R184, R207,
R212). Translating addresses takes the state from `s` to `t`. -/
def State.Reaches (s : State) (sp : MSpace) (n : Nat) (u : Use) (ea : Nat → Nat) (lanes : List Nat) (ts : List (Nat × Target))
    (t : State) : Prop :=
  s.targets sp n u ea lanes = (ts.map fun x => (x.1, .ok x.2), t) ∧ t.waitsOn n ts = []

/-- The lanes that make an access: one for a uniform access (R43). -/
def accessLanes (act : Mask) (su : Bool) : List Nat := if su then [lowestLane act] else lanesOf act

/-- The lanes that make an access of which `own` are in RM: one of them for a uniform access (DEDUCED, log entry 10). -/
def regionLanes (act own : Mask) (su : Bool) : List Nat := if su then [lowestLane own] else lanesOf act

/-- The lanes of a list of accesses that go to a line. -/
def lineLanes (ts : List (Nat × LineId)) (x : LineId) : Mask := lanesMask ((ts.filter fun t => t.2 == x).map (·.1))

/-- The value that a list of lanes gives a lane. -/
def laneValue (vs : List (Nat × Nat)) (l : Nat) : Nat := ((vs.find? fun v => v.1 == l).map (·.2)).getD 0

/-- Lanes of values written to a scalar in the uniform form, else to a vector register or pair of `w` bits. -/
def WroteLanes (r r' : Regs) (su : Bool) (d w : Nat) (act : Mask) (vs : List (Nat × Nat)) : Prop :=
  if su then WroteScal r r' d (BitVec.ofNat 64 (laneValue vs (lowestLane act)))
  else WroteVec r r' d w act (laneValue vs)

/-- One value lies below another on the line that runs from one infinity to the other; a NaN lies below none, and zeros of either sign
are one value (R78, R90, R92). -/
def FV.Below : FV → FV → Prop
  | .inf true, .inf false => True
  | .inf true, .fin _ _ _ => True
  | .fin _ _ _, .inf false => True
  | .fin s m e, .fin t n g => signedInt s m * 2 ^ (e - min e g).toNat < signedInt t n * 2 ^ (g - min e g).toNat
  | _, _ => False

/-- Two values that are no NaN are one, with one sign (R78). -/
def FV.Same : FV → FV → Prop
  | .inf s, .inf t => s = t
  | .fin s m e, .fin t n g => s = t ∧ m * 2 ^ (e - min e g).toNat = n * 2 ^ (g - min e g).toNat
  | _, _ => False

/-- What an instruction that completes leaves alone, when it changes state outside the registers: the thread but for its PC
and registers, and every other group's registers, masks and stack. -/
def KeepsThreads (s t : State) (n : Nat) (r : Regs) : Prop :=
  t.th = { s.th with pc := s.th.pc + n, regs := r } ∧ ∀ g, g ≠ s.cur → (t.group g).th = (s.group g).th

/-- Between `s` and `t` group `g` has made an acquire of rank `r` over the spaces of `mask` (R169). At `.clu` or wider its core keeps, of
those spaces, the view entries of its own stores that are not yet published at that rank. No byte of a store published by a release that
the group knows, or that has completed, is read older than that store, where the release covers it and each scope contains the other's
core. -/
def State.Acquired (s t : State) (g r : Nat) (mask : BitVec 4) : Prop :=
  let c := (s.group g).core
  let k := t.core c
  (r < 2 → k.view = (s.core c).view) ∧ k.stores = (s.core c).stores ∧ t.mem = s.mem
  ∧ (2 ≤ r → ∀ a v, k.view.find? a = some v → covers mask a = true →
      v.sid ≠ 0 ∧ ∃ st ∈ k.stores, st.sid = v.sid ∧ st.plain < pubRank a r)
  ∧ ∀ e ∈ s.hist, ∀ m q, m ∈ e.rels ++ e.adders → s.rels.find? m = some q → (q.done = true ∨ m ∈ (t.group g).known) →
      covers mask e.loc = true → covers q.mask e.loc = true → inScope q.scope q.core c = true → inScope r c q.core = true →
      ∀ i, i < e.bytes.length → e.seq ≤ Tab.get 0 k.floor (e.loc + i)

/-- An instruction of `n` bytes has issued engine operation `o`, a new one, and gone on: its kind, progress, channel and
counter, at the end of its channel's queue while it has work to do (R177, R201, R210). -/
def IssuedAs (o : Nat) (s t : State) (n : Nat) (chan : Option Nat) (kind : OpKind) (st : OpState) (tile : Bool) : Prop :=
  s.ops.find? o = none ∧ (t.op o).kind = kind ∧ (t.op o).st = st ∧ (t.op o).chan = chan ∧ (t.op o).tile = tile
  ∧ (t.op o).grp = s.cur ∧ (t.op o).block = s.grp.block ∧ (t.op o).core = s.grp.core
  ∧ t.th = { s.th with pc := s.th.pc + n } ∧ t.mem = s.mem
  ∧ ∀ c, chan = some c → st = .queued → (t.chan s.grp.block c).queue = (s.chan s.grp.block c).queue ++ [o]

/-- An instruction of `n` bytes has issued one new engine operation and gone on. -/
def Issued (s t : State) (n : Nat) (chan : Option Nat) (kind : OpKind) (st : OpState) (tile : Bool) : Prop :=
  ∃ o, IssuedAs o s t n chan kind st tile

/-- Group `g` has just entered handler `w` of object `k` for a fault (R335): the interrupted thread is kept, one lane is
active, and the scalars 0 to 5 tell the fault; every other register reads zero. -/
def Entered (t : State) (g : Nat) (o : Thread) (k : Kernel) (w code : Nat) (va : BitVec 64) (lanes : Mask) (trap : Word)
    (pc func : Nat) : Prop :=
  let x := t.group g
  (∃ h, x.hnd = some h ∧ h.outer = o ∧ h.kernel = k)
  ∧ x.faultc = BitVec.ofNat 8 code ∧ x.faultva = va ∧ x.wait = .none
  ∧ x.th.pc = 8 * w ∧ x.th.exec = 1 ∧ x.th.live = 1 ∧ x.th.stack = [] ∧ x.th.depth = 0
  ∧ x.th.regs.scal 0 = BitVec.ofNat 64 code ∧ x.th.regs.scal 1 = va ∧ x.th.regs.scal 2 = lanes.setWidth 64
  ∧ x.th.regs.scal 3 = trap.setWidth 64 ∧ x.th.regs.scal 4 = BitVec.ofNat 64 pc
  ∧ x.th.regs.scal 5 = BitVec.ofNat 64 func
  ∧ (∀ i, 6 ≤ i → x.th.regs.scal i = 0) ∧ (∀ i l, x.th.regs.vec i l = 0)

/-- Group `g`, in no handler, has taken fault `f` (R331 cases 3 and 4, R333, R335, R350): `faultc` and the 56-bit `faultva` tell it,
but of a breakpoint that CONTINUE passes over. A debugger halts the group at a breakpoint or in place of ABORT; else the action of
the context's table enters a handler, goes on where `rte` would, or terminates the grid with LAUNCH_FAULT. -/
def TookFault (s t : State) (g : Nat) (f : FaultInfo) : Prop :=
  let x := s.group g
  let act := s.action g f.code
  let dbg := (s.ctx (s.ctxOf g)).debugger
  let passed : Prop := f.code = 0x13 ∧ act = .cont ∧ dbg = false
  (passed → (t.group g).faultc = x.faultc ∧ (t.group g).faultva = x.faultva)
  ∧ (¬passed → (t.group g).faultc = BitVec.ofNat 8 f.code ∧ (t.group g).faultva = vaReg f.va)
  ∧ if dbg = true ∧ (f.code = 0x13 ∨ act = .abort) then
      (t.group g).wait = .halt ∧ (t.group g).hnd = none ∧ (t.group g).th = { x.th with pc := f.rte }
    else match act with
      | .handler k w =>
        Entered t g x.th k w f.code (vaReg f.va) f.lanes f.trap f.pc ((s.kernelOf x).funcIndex x.th.body)
        ∧ ∃ h, (t.group g).hnd = some h ∧ h.fault = { f with va := vaReg f.va }
      | .cont => (t.group g).hnd = none ∧ (t.group g).th = { x.th with pc := f.rte }
      | .abort => (t.launch (s.block x.block).launch).aborted = true
          ∧ (t.launch (s.block x.block).launch).status = 0x51

/-- An instruction of `n` bytes of the executing group, in no handler, performs nothing and takes a fault (R331, R337): a
plain return would perform it again, and `.skip` would go past it. -/
def Faults (i : Instr) (s s' : State) (n code : Nat) (va : BitVec 64) (lanes : Mask) : Prop :=
  ∃ t, exec i s = .next t ∧ TookFault s' t s.cur ⟨code, va, lanes, 0, s.th.pc, s.th.pc, s.th.pc + n, 0, false⟩

/-- A load outside any region and handler that has brought state `s` to `u` has received the bytes `vs`, some of them poisoned (R185): it
completes in the clean lanes, the lanes that received poison lose their `live` bit, or the whole group where the load is uniform, and the
group takes UNCORRECTABLE with the mask of those lanes. -/
def PoisonKills (i : Instr) (f : MemOp) (s u : State) (vs : List (Nat × List MByte)) : Prop :=
  let act := s.th.act f.guard
  let pc := s.th.pc + ilen f.ext
  let bad := lanesMask ((vs.filter fun v => anyPoison v.2).map (·.1))
  let gone := if f.su then s.th.live else bad
  ∃ (r : Regs) (t : State), exec i s = .next t
    ∧ (if f.su then r = s.th.regs
       else WroteVec s.th.regs r f.d.toNat (if f.acc == .b64 then 64 else 32) (act &&& ~~~bad)
         (laneValue (vs.map fun v => (v.1, (widen f.acc v.2).toNat))))
    ∧ TookFault (u.setTh { s.th with pc := pc, regs := r, live := s.th.live &&& ~~~gone }) t s.cur
        ⟨0x10, 0, gone, 0, pc, pc, pc, gone, false⟩

/-- Between `s` and `t` a cause has aborted lanes of the executing group's open region: those of RM that it names, or all of RM in group
mode, lane `l` with CODE `code l` (R305, R308, R310, R311). In lane mode they leave `exec`, their buffered bytes and read-set bits go, and
the others stay where they are; group mode closes the region and goes on at the abort target. The scalars and `stk.ptr` go back when every
lane that entered does, and none has committed. -/
def Aborted (s t : State) (named : Mask) (code : Nat → Half) : Prop :=
  let r := s.grp.region
  let u := t.grp.region
  let own := if named &&& r.rm = 0 then 0 else if r.mode = true then r.rm else named &&& r.rm
  let all : Bool := !r.anyc && own == (r.entry &&& ~~~s.th.ended)
  let codes : Prop := ∀ l, Tab.get 0 u.code l = if l < 32 ∧ own.getLsbD l = true then code l else Tab.get 0 r.code l
  let back : Regs → Regs → Prop := RolledBack r.ckRegs own all
  t.th.live = s.th.live ∧ t.mem = s.mem
  ∧ (own = 0 → t.th = s.th ∧ u = r)
  ∧ (own ≠ 0 → r.mode = false →
      t.th.pc = s.th.pc ∧ t.th.exec = s.th.exec &&& ~~~own ∧ t.th.strand = s.th.strand &&& ~~~own ∧ codes
      ∧ u.depth = r.depth ∧ u.rm = r.rm &&& ~~~own ∧ u.am = r.am ||| own
      ∧ (∀ y, y ∈ u.buffer ↔ y ∈ r.buffer ∧ own.getLsbD y.lane = false) ∧ (∀ x, u.readers x = r.readers x &&& ~~~own)
      ∧ t.grp.abortc = s.grp.abortc ∧ t.grp.stkptr = (if all then r.ckPtr else s.grp.stkptr)
      ∧ (savedAtTry s.th.stack = none → back s.th.regs t.th.regs)
      ∧ ∀ g, savedAtTry s.th.stack = some g → t.th.regs = s.th.regs ∧ ∃ g', savedAtTry t.th.stack = some g' ∧ back g g')
  ∧ ∀ target below, own ≠ 0 → r.mode = true → belowTry s.th.stack = some (target, below) →
      let goOn := r.entry &&& s.th.live &&& ~~~s.th.ended
      t.th.pc = target ∧ t.th.stack = below ∧ t.th.body = r.ckBody ∧ t.th.depth = r.ckDepth ∧ t.th.exec = goOn
      ∧ t.th.strand = goOn ∧ codes ∧ u.depth = 0 ∧ u.rm = 0 ∧ u.buffer = [] ∧ u.reads = [] ∧ u.am = r.am ||| own
      ∧ (∀ l, l < 32 → goOn.getLsbD l = true → (∀ j, j < l → goOn.getLsbD j = false) → t.grp.abortc = Tab.get 0 u.code l)
      ∧ t.grp.stkptr = (if all then r.ckPtr else s.grp.stkptr)
      ∧ back ((savedAtTry s.th.stack).getD s.th.regs) t.th.regs

/-- An instruction aborts the lanes that `p` names, with one code, and performs nothing for them (R309). -/
def AbortsBy (i : Instr) (s : State) (p : Nat → Prop) (code : Half) : Prop :=
  ∃ t m, exec i s = .next t ∧ (∀ l, l < 32 → (BitVec.getLsbD m l = true ↔ p l)) ∧ Aborted s t m fun _ => code

/-- Lane `l` finds no entry left for its line among `cap`, of which those of `held` are taken: lanes take entries in ascending order
(R306). -/
def Spills (cap : Nat) (held : List LineId) (ts : List (Nat × LineId)) (l : Nat) : Prop :=
  ∃ x, (l, x) ∈ ts ∧ cap ≤ (held ++ ts.map (·.2)).eraseDups.idxOf x

/-- Lane `l` has read or stored an accessed line that one lane has stored and another has read, and is not the lowest such lane (R308). -/
def Aliases (readers writers : LineId → Mask) (ts : List (Nat × LineId)) (l : Nat) : Prop :=
  ∃ y ∈ ts, let users := readers y.2 ||| writers y.2
    (∃ a b, a ≠ b ∧ (readers y.2).getLsbD a = true ∧ (writers y.2).getLsbD b = true)
    ∧ users.getLsbD l = true ∧ ∃ j, j < l ∧ users.getLsbD j = true

/-- Outside any speculative region, or in a handler: no active lane is one of RM (R303, R307). -/
def State.Outside (s : State) : Prop := s.grp.rm = 0

/-- An unsigned command that the Mallet cores serve, in its form (R368): the package has booted, the mailbox takes it, and the header
names `n` operand words and no nonce. -/
def Served (c : Cmd) (n : Nat) (s : State) : Prop :=
  s.taken c = true ∧ c.nopw = n ∧ c.ops.length = n ∧ c.nonce = 0

/-- A served command with `n` operand words is answered OK without words, after a change that leaves `p` (R368, R369). -/
def Obeyed (i : Instr) (c : Cmd) (s : State) (p : State → Prop) : Prop :=
  ∃ t, exec i s = .next (t.answer c 0 []) ∧ p t

/-- A command in its signed form (R370): it is obeyed when both signatures verify and its nonce is new, and that nonce is
stored; a wrong signature, and then an old nonce, is answered alone. -/
def SignedObeyed (i : Instr) (c : Cmd) (code : Nat) (s : State) (p : State → Prop) : Prop :=
  ∃ t, p t ∧ t.nonce = c.nonce ∧ exec i s = .next (
    if sigOk s.keys (·.admin) c.sig (c.signed code) = false then s.answer c 5 []
    else if c.nonce ≤ s.nonce then s.answer c 6 [] else t.answer c 0 [])

/-- A pre-emption of the unit of a cluster has been requested (R316, R340): its clusters await it. While a group of the unit holds NP
nothing else comes of it (R147). Else it is taken: unless the unit is to be discarded (R342), which is judged when it is first taken, the
groups with an open region there have a PREEMPT abort to take, and leave a wait that would be tried again. -/
def Requested (s t : State) (cl : Nat) (swap : Bool) : Prop :=
  let bs := s.residentOn (s.unitClusters cl)
  let discard : Bool := if (s.cluster cl).taken then (s.cluster cl).discard else s.discardable bs
  bs ≠ [] →
  (∀ c, c ∈ s.unitClusters cl → (t.cluster c).preempt = true ∧ (swap = true → (t.cluster c).swap = true))
  ∧ (s.npHeld bs = true → t.groups = s.groups)
  ∧ (s.npHeld bs = false →
      (∀ c, c ∈ s.unitClusters cl → (t.cluster c).taken = true ∧ (t.cluster c).poolWait = false ∧ (t.cluster c).discard = discard)
      ∧ ∀ g x, s.groups.find? g = some x → x.block ∈ bs → x.retired = false → x.openHere = true → discard = false →
          (t.group g).preempt = true ∧ (x.wait.again = true → (t.group g).wait = .none))

end Sys2Proof.Machine

namespace Sys2Proof

open Machine

/-- The guard and the length in bytes of an instruction that its active lanes govern (R7, R8, R30); none for RTE, which a
handler executes whatever its lanes are, and for events. -/
def Instr.guardLen : Instr → Option (Guard × Nat)
  | .iadd f | .isub f | .imul f | .imulhi f | .imad f | .imin f | .imax f | .iabs f | .and f | .or f | .xor f | .andn f
  | .shl f | .shr f | .sar f | .rot f | .popc f | .clz f | .brev f | .bfe f | .bfi f | .icmp f | .sel f | .mov f | .movi f
  | .lea f | .iaddc f | .dp4 f | .isad f | .fadd f | .fsub f | .fmul f | .ffma f | .fmin f | .fmax f | .frcp f | .frsq f
  | .fsqrt f | .fex2 f | .flg2 f | .fsin f | .fcos f | .ftanh f | .fcmp f | .fclass f | .frnd f | .cvt f | .fpack f
  | .hpadd f | .hpmul f | .hpfma f | .add2 f | .sub2 f | .max2 f | .min2 f | .sel2 f | .cmp2 f | .shl2 f | .shr2 f
  | .shfl f | .qswp f | .qbcast f | .vote f | .gred f | .gscan f | .lget f | .lput f | .matchOp f =>
    some (f.guard, ilen f.ext)
  | .pset f => some (f.guard, 16)
  | .bra f => some (f.guard, 16)
  | .brx f => some (f.guard, 16)
  | .call f | .callx f => some (f.guard, 16)
  | .ret f => some (f.guard, ilen f.ext)
  | .endOp f => some (f.guard, ilen f.ext)
  | .spawn _ => some (Guard.always, 16)
  | .yield f | .nop f | .npbeg f | .npend f | .commit f | .dbgHalt f => some (Guard.always, ilen f.ext)
  | .trap f | .bkpt f => some (f.guard, ilen f.ext)
  | .ld f | .st f | .lds f | .sts f | .ldc f | .ldp f | .stp f => some (f.guard, ilen f.ext)
  | .pref f => some (f.guard, ilen f.ext)
  | .evict (.line g ext _ _ _ _) => some (g, ilen ext)
  | .evict .l1all => some (Guard.always, 16)
  | .fence _ => some (Guard.always, 16)
  | .atom f | .atoms f | .atomp f | .acas f | .acass f | .red f | .reds f => some (f.guard, 16)
  | .barv _ | .barw _ | .bars _ | .barq _ => some (Guard.always, 16)
  | .waitc _ => some (Guard.always, 16)
  | .cpy f => some (Guard.always, ilen f.ext)
  | .cpyx f | .cpya f | .cpyd f => some (Guard.always, ilen f.ext)
  | .chcfg f => some (Guard.always, ilen f.ext)
  | .wmark f => some (Guard.always, ilen f.ext)
  | .yieldc _ => some (Guard.always, 16)
  | .fsend f | .spred f => some (Guard.always, ilen f.ext)
  | .mma _ => some (Guard.always, 16)
  | .tzero f | .tload f => some (Guard.always, ilen f.ext)
  | .tdrain _ => some (Guard.always, 16)
  | .qpop f => some (f.guard, ilen f.ext)
  | .qstore f => some (Guard.always, ilen f.ext)
  | .qsend f => some (Guard.always, ilen f.ext)
  | .qstat f => some (Guard.always, ilen f.ext)
  | .nput _ | .nhash _ => some (Guard.always, 16)
  | .nget f | .npin f | .nunpin f => some (Guard.always, ilen f.ext)
  | .nroot f => some (Guard.always, ilen f.ext)
  | .nswap _ => some (Guard.always, 16)
  | .nbind f | .nunbind f => some (Guard.always, ilen f.ext)
  | .ncopy f => some (Guard.always, ilen f.ext)
  | .nstat f => some (Guard.always, ilen f.ext)
  | .tryOp _ => some (Guard.always, 16)
  | .abort f => some (f.guard, ilen f.ext)
  | .tstat f => some (Guard.always, ilen f.ext)
  | .sget f => some (f.guard, ilen f.ext)
  | .sset f => some (Guard.always, ilen f.ext)
  | .perf f => some (Guard.always, ilen f.ext)
  | .dbgLog f => some (Guard.always, ilen f.ext)
  | _ => none

/-- The instructions that R307 marks UNSUPPORTED. -/
def Instr.unsupported : Instr → Bool
  | .atom _ | .atoms _ | .atomp _ | .acas _ | .acass _ | .red _ | .reds _ | .barv _ | .barw _ | .bars _ | .barq _
  | .cpy _ | .cpyx _ | .cpya _ | .cpyd _ | .chcfg _ | .wmark _ | .yieldc _ | .fsend _ | .spred _
  | .mma _ | .tzero _ | .tload _ | .tdrain _ | .qpop _ | .qstore _ | .qsend _
  | .nput _ | .nhash _ | .nget _ | .nroot _ | .nswap _ | .npin _ | .nunpin _ | .nbind _ | .nunbind _ | .ncopy _ | .nstat _
  | .evict _ | .spawn _ | .yield _ | .trap _ | .endOp _ | .npbeg _ | .npend _ | .dbgLog _ | .dbgHalt _ => true
  | _ => false

end Sys2Proof
end

