-- ==== Sys2Proof/Certificates/Slice0/Obligations.lean ====
section
/-! DEFINITION. The statements for the provers, each named for what it states. -/

open Sys2Proof Sys2Proof.Machine

/-! ### Encoding and stepping -/

/-- R30 to R34: words written out from the spec's encodings decode to the instructions that they stand for. -/
def Obligations.KnownWordsDecode : Prop :=
  decode 0x0030200280030045 none
      = .ok (.iadd ⟨⟨3, false⟩, false, false, .i32, .rn, false, 0, 10, 3, .imm14 17, .reg 0⟩)
  ∧ decode 0x231CA00500150058 (some 0x005C400000000000)
      = .ok (.ffma ⟨⟨1, true⟩, true, false, .f32, .rz, false, 0, 20, 21, .reg 22, .reg 23⟩)
  ∧ decode 0x60F4000000000000 (some 0x00000000FFFFFFF8) = .ok (.bra ⟨⟨15, false⟩, 0xFFFFFFF8⟩)
  ∧ decode 0x70F6000100060008 (some 0x0000800000000040)
      = .ok (.ld ⟨⟨15, false⟩, true, .b32, .near, false, false, 4, 6, .vec 2 2 0x40⟩)
  ∧ decode 0x79F5A00000000000 (some 0x0000030000000000) = .ok (.fence ⟨.dev, .rel, 3⟩)
  ∧ decode 0x90F5A00100060008 (some 0x0018820000000000)
      = .ok (.atom ⟨⟨15, false⟩, .dev, .rel, false, false, 2, 4, 6, .vec 2 2 0, false, .add, .n32⟩)
  ∧ decode 0xA2F4800000000000 (some 0x0000040000000000) = .ok (.bars ⟨.blk, 4, 0, 0, 0⟩)
  ∧ decode 0xB0F43002800B0001 (some 0x0000100000001000) = .ok (.cpy ⟨true, 3, .own, .glob, 10, 11, .imm32 0x1000⟩)
  ∧ decode 0xC0F4000080040018 (some 0x0020010000000000) = .ok (.mma ⟨2, 4, 6, 8, true⟩)
  ∧ decode 0xD0F4100500040000 (some 0x0008000000000003) = .ok (.nput ⟨true, 20, 4, 2, 3⟩)
  ∧ decode 0xE224000000000000 (some 0x000000000000002A) = .ok (.abort ⟨⟨2, false⟩, true, 0x2A⟩)
  ∧ decode 0xE8F0000140020000 none = .ok (.sget ⟨⟨15, false⟩, false, false, 5, .laneid⟩)

/-- Decode and encode agree: every virtual instruction has an encoding, and only those; every well-formed one, with any operands, decodes
from the words that encode it; and what decodes is well formed (R45). -/
def Obligations.DecodeAndEncodeAgree : Prop :=
  (∀ i : Instr, (encode i).isSome = i.isVirtual)
  ∧ (∀ (i : Instr) (ws : List DWord), i.wf = true → encode i = some ws → decodeList ws = .ok i)
  ∧ (∀ (w : DWord) (e : Option DWord) (i : Instr), decode w e = .ok i → i.wf = true)

/-- A step runs the decoded instruction: when the only thing that can happen is that group `g` issues, nothing is due at its
instruction boundary, and the word at its PC decodes to `i`, the step is `exec` of `i` with `g` executing, after the checkpoint of
R342, the commit points of R323 and the passes of R101 are noted. What a group owes at a boundary comes in place of its next
instruction (R12, R124, R339). -/
def Obligations.StepRunsDecodedOrBoundary : Prop :=
  (∀ (s : State) (g : Nat) (i : Instr),
     s.moves = [.issue g] → (s.select g).boundary = none → (s.select g).fetch = .ok i →
     step s = exec i ((s.select g).noteIssue i))
  ∧ (∀ (s : State) (g : Nat) (t : State), s.moves = [.issue g] → (s.select g).boundary = some t → step s = .next t)

/-- The state after reset meets the invariant. -/
def Obligations.ResetMeetsInvariant : Prop := State.reset.Inv

/-- Every step keeps the memory in its canonical form, from every state. -/
def Obligations.StepKeepsInvariant : Prop := ∀ s t : State, s.Inv → step s = .next t → t.Inv

/-- R8: an instruction without an active lane executes as nothing: the PC moves past it, it counts as completed, and every
register, byte of memory and other piece of state stays. -/
def Obligations.NoActiveLane : Prop :=
  ∀ (i : Instr) (g : Guard) (n : Nat) (s : State),
    i.guardLen = some (g, n) → s.th.act g = 0 → exec i s = .next (s.went n s.th.regs)

/-- What completing an instruction leaves alone: every group but the executing one, every byte of memory, the views, blocks,
barriers, engines and contexts, and of the executing group its masks, stack, special registers and region. Its PC moves on,
and its registers become those given. -/
def Obligations.CompletionFrame : Prop :=
  ∀ (s : State) (n : Nat) (r : Regs),
    let t := s.went n r
    t.th.pc = s.th.pc + n ∧ t.th.regs = r ∧ t.th.exec = s.th.exec ∧ t.th.live = s.th.live ∧ t.th.strand = s.th.strand
    ∧ t.th.stack = s.th.stack ∧ t.grp.stkptr = s.grp.stkptr ∧ t.grp.faultc = s.grp.faultc ∧ t.grp.faultva = s.grp.faultva
    ∧ t.grp.abortc = s.grp.abortc ∧ t.grp.region = s.grp.region ∧ t.grp.hnd = s.grp.hnd ∧ t.grp.np = s.grp.np
    ∧ (∀ g, g ≠ s.cur → t.group g = s.group g) ∧ (∀ a, t.homeByte a = s.homeByte a)
    ∧ t.cores = s.cores ∧ t.blocks = s.blocks ∧ t.barriers = s.barriers ∧ t.ops = s.ops ∧ t.contexts = s.contexts
    ∧ t.domains = s.domains

/-! ### Integer and address instructions -/

/-- R63, R64: the arithmetic entries write `finish` of the exact result, and IMULHI the high half of the product. -/
def Obligations.IntegerArithmetic : Prop :=
  ∀ (f : Alu) (s : State),
    let t := f.ty
    let w := t.width
    let a (e : Env) (l : Nat) : Int := tyVal t (e.a f w l)
    let b (e : Env) (l : Nat) : Int := tyVal t (e.b f w l)
    let c (e : Env) (l : Nat) : Int := tyVal t (e.c f w l)
    AluDone (.iadd f) f w s (fun e l => fill t (finish f.sat t (a e l + b e l)))
    ∧ AluDone (.isub f) f w s (fun e l => fill t (finish f.sat t (a e l - b e l)))
    ∧ AluDone (.imul f) f w s (fun e l => fill t (finish f.sat t (a e l * b e l)))
    ∧ AluDone (.imad f) f w s (fun e l => fill t (finish f.sat t (a e l * b e l + c e l)))
    ∧ AluDone (.imulhi f) f w s (fun e l => fill t (finish f.sat t ((wrap (a e l * b e l) (2 * w) / 2 ^ w : Nat) : Int)))
    ∧ AluDone (.imin f) f w s (fun e l => fill t (finish f.sat t (min (a e l) (b e l))))
    ∧ AluDone (.imax f) f w s (fun e l => fill t (finish f.sat t (max (a e l) (b e l))))
    ∧ AluDone (.iabs f) f w s (fun e l => fill t (finish f.sat t ((a e l).natAbs : Nat)))

/-- R63, R64, R97: without saturation a result wraps, and with it the nearest value of the type is written; a conversion to an
integer type gives the rounded value when it is in range, otherwise SAT clamps it, and without SAT it is the most negative
value, or all ones for an unsigned type. -/
def Obligations.IntegersWrapOrClamp : Prop :=
  ((∀ (t : Ty) (x : Int), finish false t x = (x % (2 ^ t.width : Nat)).toNat)
   ∧ (∀ (t : Ty) (x : Int), (t = .i32 ∨ t = .n32 ∨ t = .i64 ∨ t = .n64) →
       tyVal t (finish true t x) = max (tyMin t) (min x (tyMax t)))
   ∧ (∀ (t : Ty) (x : Int), (t = .i32 ∨ t = .n32 ∨ t = .i64 ∨ t = .n64) → tyMin t ≤ x → x ≤ tyMax t →
       ∀ sat, tyVal t (finish sat t x) = x))
  ∧ (∀ (rm : Round) (t : Ty), (t = .i32 ∨ t = .n32 ∨ t = .i64 ∨ t = .n64) →
       let bad : Int := if t = .i32 then -(2 ^ 31) else if t = .i64 then -(2 ^ 63) else if t = .n32 then 2 ^ 32 - 1 else 2 ^ 64 - 1
       (∀ (s : Bool) (m : Nat) (e : Int),
         let x := signedInt s (roundInt rm s m e)
         tyVal t (toInteger rm true t (.fin s m e)) = max (tyMin t) (min x (tyMax t))
         ∧ tyVal t (toInteger rm false t (.fin s m e)) = if tyMin t ≤ x ∧ x ≤ tyMax t then x else bad)
       ∧ tyVal t (toInteger rm true t .nan) = 0 ∧ tyVal t (toInteger rm false t .nan) = bad
       ∧ ∀ s, tyVal t (toInteger rm true t (.inf s)) = (if s then tyMin t else tyMax t)
           ∧ tyVal t (toInteger rm false t (.inf s)) = bad)

/-- R65 to R68, R76, R77: the logic entries act on each bit; shifts by the width or more give zeros or copies of the sign, and
ROT turns by the count modulo the width; counting and reversing bits, bit fields, the dot product and the sum of
differences. -/
def Obligations.LogicShiftsAndFields : Prop :=
  (∀ (f : Alu) (s : State),
     let t := f.ty
     let w := t.width
     let a (e : Env) (l : Nat) : BitVec w := BitVec.ofNat w (e.a f w l)
     let b (e : Env) (l : Nat) : BitVec w := BitVec.ofNat w (e.b f w l)
     let n (e : Env) (l : Nat) : Nat := e.b32 f l
     AluDone (.and f) f w s (fun e l => (a e l &&& b e l).toNat)
     ∧ AluDone (.or f) f w s (fun e l => (a e l ||| b e l).toNat)
     ∧ AluDone (.xor f) f w s (fun e l => (a e l ^^^ b e l).toNat)
     ∧ AluDone (.andn f) f w s (fun e l => (a e l &&& ~~~(b e l)).toNat)
     ∧ AluDone (.shl f) f w s (fun e l => fill t ((a e l <<< n e l).toNat))
     ∧ AluDone (.shr f) f w s (fun e l => fill t ((a e l >>> n e l).toNat))
     ∧ AluDone (.sar f) f w s (fun e l => fill t (((a e l).sshiftRight (n e l)).toNat))
     ∧ AluDone (.rot f) f w s (fun e l => fill t (((a e l).rotateLeft (n e l % w)).toNat)))
  ∧ (∀ (f : Alu) (s : State),
       let t := f.ty
       let w := t.width
       let t32 : Ty := if t.signed then .i32 else .n32
       AluDone (.popc f) f 32 s (fun e l => ((List.range w).countP fun i => (e.a f w l).testBit i))
       ∧ AluDone (.clz f) f 32 s (fun e l => leadingZeros (e.a f w l) w)
       ∧ AluDone (.brev f) f w s (fun e l => bitReverse (e.a f w l) w)
       ∧ AluDone (.bfe f) f w s (fun e l => fill t (bitExtract t (e.a f w l) (e.b32 f l)))
       ∧ AluDone (.bfi f) f w s (fun e l => bitInsert w (e.a f w l) (e.c f w l) (e.b32 f l))
       ∧ AluDone (.dp4 f) f 32 s (fun e l => fill t32 (finish f.sat t32
           (tyVal t32 (e.c f 32 l) + tyVal t (byteOf (e.a f 32 l) 0) * tyVal t (byteOf (e.b f 32 l) 0)
             + tyVal t (byteOf (e.a f 32 l) 1) * tyVal t (byteOf (e.b f 32 l) 1)
             + tyVal t (byteOf (e.a f 32 l) 2) * tyVal t (byteOf (e.b f 32 l) 2)
             + tyVal t (byteOf (e.a f 32 l) 3) * tyVal t (byteOf (e.b f 32 l) 3))))
       ∧ AluDone (.isad f) f 32 s (fun e l => finish f.sat .n32
           ((e.c f 32 l : Nat) + if t = .n8 then
               (((byteOf (e.a f 32 l) 0 : Int) - byteOf (e.b f 32 l) 0).natAbs
                 + ((byteOf (e.a f 32 l) 1 : Int) - byteOf (e.b f 32 l) 1).natAbs
                 + ((byteOf (e.a f 32 l) 2 : Int) - byteOf (e.b f 32 l) 2).natAbs
                 + ((byteOf (e.a f 32 l) 3 : Int) - byteOf (e.b f 32 l) 3).natAbs : Nat)
             else ((tyVal t (e.a f 32 l) - tyVal t (e.b f 32 l)).natAbs : Nat))))

/-- R67, R68: each bit of a reversal, an extracted field and an inserted field; an extracted field without bits is 0. -/
def Obligations.FieldBits : Prop :=
  (∀ w x i : Nat, i < w → (bitReverse x w).testBit i = x.testBit (w - 1 - i))
  ∧ (∀ w a c d i : Nat, i < w → (bitInsert w a c d).testBit i =
      if fieldPos d ≤ i ∧ i < fieldPos d + fieldLen d w then a.testBit (i - fieldPos d) else c.testBit i)
  ∧ (∀ (t : Ty) (a d i : Nat), i < t.width → fieldLen d t.width ≠ 0 →
      let j := fieldPos d + min i (if t.signed then fieldLen d t.width - 1 else i)
      (bitExtract t a d).testBit i =
        if t.signed = false ∧ fieldLen d t.width ≤ i then false
        else if j < t.width then a.testBit j else t.signed && a.testBit (t.width - 1))
  ∧ (∀ (t : Ty) (a d : Nat), fieldLen d t.width = 0 → bitExtract t a d = 0)

/-- R69, R70, R72 to R74: compare, select, moves and the address of LEA. That the uniform SEL tests all 64 bits of its condition is
the model's reading (DEDUCED, log entry 61). -/
def Obligations.CompareSelectMove : Prop :=
  ∀ (f : Alu) (s : State),
    let t := f.ty
    let w := t.width
    PredDone (.icmp f) f s (fun e l => condHolds f.sub.toNat (relInt (tyVal t (e.a f w l)) (tyVal t (e.b f w l))))
    ∧ AluDone (.sel f) f w s (fun e l =>
        if (if f.u then e.regs.scal (opndIdx f.c).toNat ≠ 0 else (e.regs.pred (opndIdx f.c).toNat).getLsbD l = true) then
          e.a f w l
        else e.b f w l)
    ∧ AluDone (.mov f) f w s (fun e l => e.b f w l)
    ∧ AluDone (.movi f) f 64 s (fun e l =>
        if f.sub = 0 then e.reg f.d.toNat f.u 64 l / 2 ^ 32 * 2 ^ 32 + e.b f 32 l
        else e.b f 32 l * 2 ^ 32 + e.reg f.d.toNat f.u 64 l % 2 ^ 32)
    ∧ AluDone (.lea f) f 64 s (fun e l =>
        ((((e.opnd f.b f.u true 64 l : Nat) : Int) + tyVal t (e.a f 32 l) * (2 ^ f.sub.toNat : Nat)) % (2 ^ 64 : Nat)).toNat)

/-- R71: PSET writes bit 4A + 2B + C of its table to a predicate in each active lane. -/
def Obligations.PredicateTable : Prop :=
  ∀ (f : PsetOp) (s : State), ∃ r, exec (.pset f) s = .next (s.went 16 r) ∧
    if s.th.act f.guard = 0 then r = s.th.regs
    else WrotePred s.th.regs r f.d.toNat (s.th.act f.guard) fun l =>
      let p (i : Idx) : Nat := if (s.th.regs.pred i.toNat).getLsbD l then 1 else 0
      f.table.getLsbD (4 * p f.a + 2 * p f.b + p f.c)

/-- R75: IADDC writes the sum modulo 2^w of two values and a carry-in, and the carry-out to predicate SUB in every active
lane. In the uniform form the carry-in is that of the lowest active lane. -/
def Obligations.CarryChain : Prop :=
  ∀ (f : Alu) (s : State), s.th.act f.guard ≠ 0 →
    let w := f.ty.width
    let act := s.th.act f.guard
    let e := s.env
    let cin (l : Nat) : Nat :=
      if (s.th.regs.pred (opndIdx f.c).toNat).getLsbD (if f.u then lowestLane act else l) then 1 else 0
    let sum (l : Nat) : Nat := e.a f w l + e.b f w l + cin l
    ∃ r r', exec (.iaddc f) s = .next (s.went (ilen f.ext) r')
      ∧ (if f.u then WroteScal s.th.regs r f.d.toNat (BitVec.ofNat 64 (sum 0 % 2 ^ w))
         else WroteVec s.th.regs r f.d.toNat w act fun l => sum l % 2 ^ w)
      ∧ WrotePred r r' f.sub.toNat act fun l => decide (2 ^ w ≤ sum (if f.u then 0 else l))

/-! ### Floating point -/

/-- R89 to R99: arithmetic rounds the exact result once, FMIN and FMAX choose an operand, FRND rounds to an integral value, and
FCMP and FCLASS write a predicate; conversions, packing, and arithmetic on pairs, whose two elements do not affect each
other; each approximating entry, and FSQRT, is one fixed function of its operand. What the helpers come to: R90's choice by mode, the
operand's own pattern and the order of the zeros; R92's relation of the values; R93's class bits; R94's integral value, with the sign
kept; R96's rounding and exact widening; and R97's conversion to an integer, with its range. -/
def Obligations.FloatArithmetic : Prop :=
  (∀ (f : Alu) (s : State),
     let k := tyFmt f.ty
     let a (e : Env) (l : Nat) : Nat := e.a f k.width l
     let b (e : Env) (l : Nat) : Nat := e.b f k.width l
     let c (e : Env) (l : Nat) : Nat := e.c f k.width l
     AluDone (.fadd f) f 32 s (fun e l => k.rnd f.rm f.sat ((k.fv (a e l)).add f.rm (k.fv (b e l))))
     ∧ AluDone (.fsub f) f 32 s (fun e l => k.rnd f.rm f.sat ((k.fv (a e l)).add f.rm (k.fv (b e l)).neg))
     ∧ AluDone (.fmul f) f 32 s (fun e l => k.rnd f.rm f.sat ((k.fv (a e l)).mul (k.fv (b e l))))
     ∧ AluDone (.ffma f) f 32 s (fun e l =>
         k.rnd f.rm f.sat (((k.fv (a e l)).mul (k.fv (b e l))).add f.rm (k.fv (c e l))))
     ∧ AluDone (.fmin f) f 32 s (fun e l => k.minmax true (f.sub == 1) (a e l) (b e l))
     ∧ AluDone (.fmax f) f 32 s (fun e l => k.minmax false (f.sub == 1) (a e l) (b e l))
     ∧ AluDone (.frnd f) f 32 s (fun e l => k.integral f.rm (a e l))
     ∧ PredDone (.fcmp f) f s (fun e l => condHolds f.sub.toNat (k.rel (a e l) (b e l)))
     ∧ PredDone (.fclass f) f s (fun e l => (e.b32 f l).testBit (k.classBit (a e l))))
  ∧ (∀ (f : Alu) (s : State),
       let k := tyFmt f.ty
       let pair (g : Nat → Nat) : Nat := g 1 * 65536 + g 0
       let el (x i : Nat) : FV := k.fv (x / 65536 ^ i % 65536)
       let dst := (Ty.ofCode f.sub.toNat).getD .f32
       AluDone (.cvt f) f dst.width s (fun e l => fill dst (convert f.rm f.sat f.ty dst (e.a f f.ty.width l)))
       ∧ AluDone (.fpack f) f 32 s (fun e l =>
           let x := k.rnd f.rm f.sat (fmtF32.fv (e.a f 32 l))
           let y := k.rnd f.rm f.sat (fmtF32.fv (e.b f 32 l))
           if k.width = 16 then y * 65536 + x
           else if f.sub = 0 then e.c f 32 l / 65536 * 65536 + y * 256 + x
           else (y * 256 + x) * 65536 + e.c f 32 l % 65536)
       ∧ AluDone (.hpadd f) f 32 s (fun e l => pair fun i =>
           k.rnd f.rm f.sat ((el (e.a f 32 l) i).add f.rm (el (e.b f 32 l) i)))
       ∧ AluDone (.hpmul f) f 32 s (fun e l => pair fun i => k.rnd f.rm f.sat ((el (e.a f 32 l) i).mul (el (e.b f 32 l) i)))
       ∧ AluDone (.hpfma f) f 32 s (fun e l => pair fun i =>
           k.rnd f.rm f.sat (((el (e.a f 32 l) i).mul (el (e.b f 32 l) i)).add f.rm (el (e.c f 32 l) i))))
  ∧ (∀ (f : Alu) (s : State),
       AluDone (.frcp f) f 32 s (fun e l => frcpBits f.sat (e.a f 32 l))
       ∧ AluDone (.frsq f) f 32 s (fun e l => frsqBits f.sat (e.a f 32 l))
       ∧ AluDone (.fsqrt f) f 32 s (fun e l => fsqrtBits f.rm (e.a f 32 l))
       ∧ AluDone (.fex2 f) f 32 s (fun e l => fex2Bits f.sat (e.a f 32 l))
       ∧ AluDone (.flg2 f) f 32 s (fun e l => flg2Bits (e.a f 32 l))
       ∧ AluDone (.fsin f) f 32 s (fun e l => fsinBits (e.a f 32 l))
       ∧ AluDone (.fcos f) f 32 s (fun e l => fcosBits (e.a f 32 l))
       ∧ AluDone (.ftanh f) f 32 s (fun e l => ftanhBits (e.a f 32 l)))
  ∧ (∀ k ∈ [fmtF32, fmtF16, fmtBf16], ∀ (a b : Nat), a < 2 ^ k.width → b < 2 ^ k.width →
      let na := k.isNan a
      let nb := k.isNan b
      (∀ lo : Bool,
        (na = true → nb = true → ∀ m, k.minmax lo m a b = k.qnan)
        ∧ (na ≠ nb → k.minmax lo false a b = (if na then b else a) ∧ k.minmax lo true a b = k.qnan)
        ∧ (na = false → nb = false → ∀ m,
            let r := k.minmax lo m a b
            (r = a ∨ r = b)
            ∧ (lo = true → ¬(k.fv a).Below (k.fv r) ∧ ¬(k.fv b).Below (k.fv r))
            ∧ (lo = false → ¬(k.fv r).Below (k.fv a) ∧ ¬(k.fv r).Below (k.fv b))
            ∧ (k.mag a = 0 → k.mag b = 0 → k.sign r = if lo then k.sign a || k.sign b else k.sign a && k.sign b)))
      ∧ (k.rel a b = .unord ↔ na = true ∨ nb = true)
      ∧ (k.rel a b = .lt ↔ (k.fv a).Below (k.fv b)) ∧ (k.rel a b = .gt ↔ (k.fv b).Below (k.fv a))
      ∧ k.classBit a = (match k.fv a with
          | .nan => if a.testBit (k.mb - 1) then 1 else 0
          | .inf s => if s then 2 else 9
          | .fin s m _ => if m = 0 then (if s then 5 else 6)
              else if m < 2 ^ k.mb then (if s then 4 else 7) else (if s then 3 else 8))
      ∧ ∀ rm : Round,
          (na = true → k.integral rm a = k.qnan)
          ∧ (∀ s, k.fv a = .inf s → k.integral rm a = a)
          ∧ (∀ s m e, k.fv a = .fin s m e →
              (0 ≤ e ∨ m = 0 → k.integral rm a = a)
              ∧ (k.fv (k.integral rm a)).Same (if 0 ≤ e then .fin s m e else .fin s (roundInt rm s m e) 0)))
  ∧ (∀ (rm : Round) (sat : Bool) (src dst : Ty) (x : Nat), x < 2 ^ src.width → cvtPairOk src dst = true →
      let y : FV := if tyIsFloat src then (tyFmt src).fv x else .fin (decide (tyVal src x < 0)) (tyVal src x).natAbs 0
      let r := convert rm sat src dst x
      let k := tyFmt dst
      let wide : Bool := tyIsFloat src && decide (src.width < dst.width)
      (tyIsFloat dst = true →
        (wide = false → r = k.rnd rm sat y)
        ∧ (wide = true → (y = .nan → r = k.qnan) ∧ (y ≠ .nan → (k.fv r).Same y)))
      ∧ (tyIsFloat dst = false → tyIsFloat src = true →
        let n : Int := match y with
          | .fin s m e => if s then -(roundInt rm s m e : Int) else roundInt rm s m e
          | _ => 0
        let indef : Int := if dst.signed then tyMin dst else tyMax dst
        r = wrap (match y with
          | .nan => if sat then 0 else indef
          | .inf s => if sat then (if s then tyMin dst else tyMax dst) else indef
          | .fin _ _ _ => if tyMin dst ≤ n ∧ n ≤ tyMax dst then n
              else if sat then (if n < tyMin dst then tyMin dst else tyMax dst) else indef) dst.width))

/-- R78, R83: rounding the value of any pattern that is not a NaN gives the pattern back, in every format and direction; a
NaN operand gives the canonical NaN, and with SAT an infinite result is the largest finite value. R82: the four directions.
`n` is the rounded magnitude of m / 2^d with sign `s`: RZ truncates, RN takes a nearest integer and the even one of two, and
RU and RD go up and down. -/
def Obligations.RoundingIsExactAndDirected : Prop :=
  (∀ k ∈ [fmtF32, fmtF16, fmtBf16, fmtE4m3, fmtE5m2], ∀ (rm : Round) (x : Nat), x < 2 ^ k.width →
     (k.isNan x = false → k.rnd rm false (k.fv x) = x)
     ∧ (k.isNan x = true → ∀ (sat : Bool) (y : FV),
         k.rnd rm sat ((k.fv x).add rm y) = k.qnan ∧ k.rnd rm sat (y.add rm (k.fv x)) = k.qnan
         ∧ k.rnd rm sat ((k.fv x).mul y) = k.qnan ∧ k.rnd rm sat (y.mul (k.fv x)) = k.qnan)
     ∧ ∀ (s : Bool), k.rnd rm true (.inf s) = k.signed s k.maxBits)
  ∧ (∀ (s : Bool) (m d : Nat),
       let n (rm : Round) : Nat := roundInt rm s m (-(d : Int))
       let down (x : Nat) : Prop := x * 2 ^ d ≤ m ∧ m < (x + 1) * 2 ^ d
       let up (x : Nat) : Prop := m ≤ x * 2 ^ d ∧ x * 2 ^ d < m + 2 ^ d
       down (n .rz)
       ∧ (if s then down (n .ru) else up (n .ru))
       ∧ (if s then up (n .rd) else down (n .rd))
       ∧ 2 * (n .rn * 2 ^ d) ≤ 2 * m + 2 ^ d ∧ 2 * m ≤ 2 * (n .rn * 2 ^ d) + 2 ^ d
       ∧ (2 * m = 2 * (n .rn * 2 ^ d) + 2 ^ d ∨ 2 * (n .rn * 2 ^ d) = 2 * m + 2 ^ d → n .rn % 2 = 0))

/-- R91: the special values of the approximating entries, over the whole ranges of operands that the table names. -/
def Obligations.ApproximationSpecialValues : Prop :=
  (∀ x, x < 2 ^ 32 → fmtF32.isNan x = true → ∀ (sat : Bool) (rm : Round),
    frcpBits sat x = 0x7FC00000 ∧ frsqBits sat x = 0x7FC00000 ∧ fsqrtBits rm x = 0x7FC00000 ∧ fex2Bits sat x = 0x7FC00000
    ∧ flg2Bits x = 0x7FC00000 ∧ fsinBits x = 0x7FC00000 ∧ fcosBits x = 0x7FC00000 ∧ ftanhBits x = 0x7FC00000)
  ∧ (∀ x, x < 0x200000 → frcpBits false x = 0x7F800000 ∧ frcpBits true x = 0x7F7FFFFF
      ∧ frcpBits false (0x80000000 + x) = 0xFF800000 ∧ frcpBits true (0x80000000 + x) = 0xFF7FFFFF)
  ∧ (∀ sat : Bool, frcpBits sat 0x7F800000 = 0 ∧ frcpBits sat 0xFF800000 = 0x80000000
      ∧ fex2Bits sat 0 = 0x3F800000 ∧ fex2Bits sat 0x80000000 = 0x3F800000)
  ∧ (∀ x, 0x80000000 < x → x ≤ 0xFF800000 → ∀ (sat : Bool) (rm : Round),
      frsqBits sat x = 0x7FC00000 ∧ fsqrtBits rm x = 0x7FC00000 ∧ flg2Bits x = 0x7FC00000)
  ∧ (∀ x, 0x43000000 ≤ x → x ≤ 0x7F800000 → fex2Bits false x = 0x7F800000 ∧ fex2Bits true x = 0x7F7FFFFF)
  ∧ (∀ x, 0xC3160000 < x → x ≤ 0xFF800000 → ∀ sat : Bool, fex2Bits sat x = 0)
  ∧ (∀ x, x < 0x39800000 → fsinBits x = x ∧ ftanhBits x = x
      ∧ fsinBits (0x80000000 + x) = 0x80000000 + x ∧ ftanhBits (0x80000000 + x) = 0x80000000 + x)
  ∧ (∀ x, 0x41180000 ≤ x → x ≤ 0x7F800000 → ftanhBits x = 0x3F800000 ∧ ftanhBits (0x80000000 + x) = 0xBF800000)
  ∧ (∀ rm : Round, fsqrtBits rm 0 = 0 ∧ fsqrtBits rm 0x80000000 = 0x80000000 ∧ fsqrtBits rm 0x7F800000 = 0x7F800000)
  ∧ fcosBits 0 = 0x3F800000 ∧ fcosBits 0x80000000 = 0x3F800000
  ∧ (∀ x, x = 0x7F800000 ∨ x = 0xFF800000 → fsinBits x = 0x7FC00000 ∧ fcosBits x = 0x7FC00000)
  ∧ flg2Bits 0 = 0xFF800000 ∧ flg2Bits 0x80000000 = 0xFF800000 ∧ flg2Bits 0x3F800000 = 0 ∧ flg2Bits 0x7F800000 = 0x7F800000
  ∧ frsqBits false 0 = 0x7F800000 ∧ frsqBits true 0 = 0x7F7FFFFF ∧ frsqBits false 0x80000000 = 0xFF800000
  ∧ frsqBits true 0x80000000 = 0xFF7FFFFF ∧ ∀ sat : Bool, frsqBits sat 0x7F800000 = 0

/-- R86, R91: whichever value is chosen for an approximation lies in the interval that encloses it: its place in the order of
R90 is between those of the least and greatest FP32 value there. The interval of each entry is an enclosure of its function, widened
by the entry's bound: 1 ulp of 1/a, 2 ulp of 1/√a, and of the others 2 ulp, or 2^-22 where R91 bounds the absolute error. Integer
inequalities say that the enclosures of 1/a and 1/√a hold those numbers; of the transcendental functions the statement names the
enclosure, and bounds its width. FRCP, FRSQ and FLG2 at every power of two that R91 names, subnormal ones too, and FEX2 at every integer
from -149 to 127 are exact. The root that FSQRT rounds is
the integer part of the square root. -/
def Obligations.ApproximationIntervals : Prop :=
  (∀ (fn a : Nat) (lo hi q : Int), InInterval (pickWithin fn a lo hi q) lo hi q)
  ∧ (∀ (x m : Nat) (s : Bool) (e : Int), fmtF32.fv x = .fin s m e → m ≠ 0 →
     let top : Int := m.log2 + e
     let unit : Int := -192
     (isPow2 m = false → -128 ≤ top → ∃ lo : Nat, lo * m ≤ 2 ^ (192 - e).toNat ∧ 2 ^ (192 - e).toNat < (lo + 1) * m ∧
       let ulp : Int := 2 ^ (ulpExp lo (lo + 1) unit - unit).toNat
       let hi : Int := if top < 126 then lo + 1 + ulp else min (lo + 1 + ulp) (2 ^ 66 - 1)
       InInterval (frcpBits false x) (if s then -hi else lo - ulp) (if s then ulp - lo else hi) unit)
     ∧ (s = false → isPow2 m = false ∨ top % 2 ≠ 0 → ∃ r : Nat, r * r * m ≤ 2 ^ (384 - e).toNat
         ∧ 2 ^ (384 - e).toNat < (r + 1) * (r + 1) * m ∧
       let ulp : Int := 2 ^ (ulpExp r (r + 2) unit - unit).toNat
       InInterval (frsqBits false x) (r - 2 * ulp) (r + 2 + 2 * ulp) unit)
     ∧ (s = false → isPow2 m = false → ∃ lo hi : Int, hi - lo = 2 ^ 130 ∧ lo / 2 ^ 192 = top ∧
       let err : Int := if -1 ≤ top ∧ top ≤ 0 then 2 ^ 170 else 2 * 2 ^ (ulpExp lo hi unit - unit).toNat
       InInterval (flg2Bits x) (lo - err) (hi + err) unit)
     ∧ (∀ (i : Int) (frac : Nat), top < 8 → frac < 2 ^ 192 → frac ≠ 0 → -150 ≤ i → i < 128 →
         signedInt s m * 2 ^ (e + 192).toNat = i * 2 ^ 192 + frac →
         let t : Nat := exp2Frac frac
         let q : Int := i + unit
         let p : Int := min q (ulpExp t (t + 2 ^ 16) q)
         let err : Int := 2 * 2 ^ (ulpExp t (t + 2 ^ 16) q - p).toNat
         InInterval (fex2Bits false x) (t * 2 ^ (q - p).toNat - err) ((t + 2 ^ 16) * 2 ^ (q - p).toNat + err) p)
     ∧ (-12 ≤ top → ∃ lo hi : Int, (lo, hi) = sinEnclose s m e 0 ∧ hi - lo = 2 ^ 93
         ∧ InInterval (fsinBits x) (lo - 2 ^ 170) (hi + 2 ^ 170) unit)
     ∧ (∃ lo hi : Int, (lo, hi) = sinEnclose s m e 1 ∧ hi - lo = 2 ^ 93
         ∧ InInterval (fcosBits x) (lo - 2 ^ 170) (hi + 2 ^ 170) unit)
     ∧ (-12 ≤ top → fmtF32.mag x < 0x41180000 → ∃ lo hi : Int,
         (lo, hi) = (if s then (-((tanhEnclose m e).2 : Int), -((tanhEnclose m e).1 : Int))
                     else (((tanhEnclose m e).1 : Int), ((tanhEnclose m e).2 : Int))) ∧
         let ulp : Int := 2 ^ (ulpExp lo hi unit - unit).toNat
         InInterval (ftanhBits x) (lo - 2 * ulp) (hi + 2 * ulp) unit))
  ∧ (let two (n : Int) : Nat := if -126 ≤ n then (127 + n).toNat * 2 ^ 23 else 2 ^ (n + 149).toNat
     let whole (n : Int) : Nat := fmtF32.rnd .rn false (.fin (decide (n < 0)) n.natAbs 0)
     ∀ n : Int, -149 ≤ n → n ≤ 127 →
       (-127 ≤ n → frcpBits false (two n) = two (-n) ∧ frcpBits false (2 ^ 31 + two n) = 2 ^ 31 + two (-n))
       ∧ (n % 2 = 0 → frsqBits false (two n) = two (-(n / 2)))
       ∧ fex2Bits false (whole n) = two n ∧ flg2Bits (two n) = whole n)
  ∧ (∀ n : Nat, isqrt n * isqrt n ≤ n ∧ n < (isqrt n + 1) * (isqrt n + 1))

/-! ### Packed integers and lanes -/

/-- R117: the packed entries act on each 16-bit element as a type of 16 bits; a shift count is never reduced. -/
def Obligations.PackedIntegers : Prop :=
  ∀ (f : Alu) (s : State),
    let t : Ty := if f.ty.signed then .i16 else .n16
    let el (x i : Nat) : Nat := x / 65536 ^ i % 65536
    let both (g : Nat → Nat → Nat) (e : Env) (l : Nat) : Nat :=
      g (el (e.a f 32 l) 1) (el (e.b f 32 l) 1) * 65536 + g (el (e.a f 32 l) 0) (el (e.b f 32 l) 0)
    AluDone (.add2 f) f 32 s (both fun a b => finish f.sat t (tyVal t a + tyVal t b))
    ∧ AluDone (.sub2 f) f 32 s (both fun a b => finish f.sat t (tyVal t a - tyVal t b))
    ∧ AluDone (.max2 f) f 32 s (both fun a b => if tyVal t a ≤ tyVal t b then b else a)
    ∧ AluDone (.min2 f) f 32 s (both fun a b => if tyVal t a ≤ tyVal t b then a else b)
    ∧ AluDone (.cmp2 f) f 32 s (both fun a b =>
        if condHolds f.sub.toNat (relInt (tyVal t a) (tyVal t b)) then 0xFFFF else 0)
    ∧ AluDone (.shl2 f) f 32 s (both fun a n => (BitVec.ofNat 16 a <<< n).toNat)
    ∧ AluDone (.shr2 f) f 32 s (both fun a n =>
        if f.ty.signed then ((BitVec.ofNat 16 a).sshiftRight n).toNat else (BitVec.ofNat 16 a >>> n).toNat)
    ∧ AluDone (.sel2 f) f 32 s (fun e l =>
        let pick (i : Nat) : Nat :=
          if (el (e.c f 32 l) i).testBit 15 then el (e.a f 32 l) i else el (e.b f 32 l) i
        pick 1 * 65536 + pick 0)

/-- R105, R108, R111: each active lane takes A of the lane that SHFL, QSWP or QBCAST names, 0 from a dead one, and its own A
where the source falls off the end of the group. R114, R335: LGET reads the raw register of one lane, and LPUT writes it
unless the lane is absent; inside a handler both act on the interrupted group's registers. -/
def Obligations.LaneExchange : Prop :=
  (∀ (f : Alu) (s : State),
     let w := f.ty.width
     let n := s.grp.width
     let b (l : Nat) : Nat := s.env.b32 f l
     let take (src : Nat → Option Nat) (l : Nat) : Nat :=
       match src l with
       | none => s.env.reg f.a.toNat f.u w l
       | some j => if s.th.live.getLsbD j = false then 0
         else if w = 64 then (s.th.regs.vec64 f.a.toNat j).toNat else (s.th.regs.vec f.a.toNat j).toNat
     let done (i : Instr) (src : Nat → Option Nat) : Prop := VecDone i f.guard (ilen f.ext) f.d.toNat w s (take src)
     (f.sub = 0 → done (.shfl f) fun l => some (b l % n))
     ∧ (f.sub = 1 → done (.shfl f) fun l => if b l ≤ l then some (l - b l) else none)
     ∧ (f.sub = 2 → done (.shfl f) fun l => if l + b l < n then some (l + b l) else none)
     ∧ (f.sub = 3 → done (.shfl f) fun l => some ((l ^^^ b l) % n))
     ∧ (f.sub.toNat ≤ 2 → done (.qswp f) fun l => some (l ^^^ (f.sub.toNat + 1)))
     ∧ (f.sub.toNat ≤ 3 → done (.qbcast f) fun l => some (l / 4 * 4 + f.sub.toNat)))
  ∧ (∀ (f : Alu) (s : State), s.th.act f.guard ≠ 0 →
       let n := s.env.opnd f.b true false 64 0 % s.grp.width
       let o := s.grp.outer.regs
       ScalDone (.lget f) f.guard (ilen f.ext) f.d.toNat s
         (if f.ty.wide then o.vec64 f.a.toNat n else (o.vec f.a.toNat n).setWidth 64)
       ∧ ((s.absentOf s.grp).getLsbD n = true → exec (.lput f) s = .next (s.went (ilen f.ext) s.th.regs))
       ∧ ((s.absentOf s.grp).getLsbD n = false → ∃ (r : Regs) (t : State), exec (.lput f) s = .next t
           ∧ t.grp.outer.regs = r ∧ t.th.pc = s.th.pc + ilen f.ext ∧ t.grp.outer.live = s.grp.outer.live
           ∧ t.grp.outer.exec = s.grp.outer.exec ∧ (∀ g, g ≠ s.cur → t.group g = s.group g)
           ∧ WroteVec o r f.d.toNat (if f.ty.wide then 64 else 32) (laneBit n) fun _ => (s.th.regs.scal f.a.toNat).toNat))

/-- R112, R113: VOTE tells every active lane whether any or all of the active lanes satisfy a predicate, or whether their
values are equal, and the ballot is the mask of those that do; MATCH gives each active lane the mask of the active lanes
whose A equals its own, and in `.all` mode 0 unless that is every active lane. -/
def Obligations.VotesAndMatches : Prop :=
  (∀ (f : Alu) (s : State), s.th.act f.guard ≠ 0 →
     let act := s.th.act f.guard
     let p (l : Nat) : Prop := act.getLsbD l = true ∧ (s.th.regs.pred f.a.toNat).getLsbD l = true
     let v (l : Nat) : Word := s.th.regs.vec f.a.toNat l
     let tells (q : Prop) : Prop := ∃ (b : Bool) (r : Regs), (b = true ↔ q) ∧ exec (.vote f) s = .next (s.went (ilen f.ext) r)
       ∧ WrotePred s.th.regs r f.d.toNat act fun _ => b
     (f.sub = 0 → tells (∃ l, l < 32 ∧ p l))
     ∧ (f.sub = 1 → tells (∀ l, l < 32 → act.getLsbD l = true → p l))
     ∧ (f.sub = 3 → tells (∀ l m, l < 32 → m < 32 → act.getLsbD l = true → act.getLsbD m = true → v l = v m))
     ∧ (f.sub = 2 → ∃ (x : DWord) (r : Regs), exec (.vote f) s = .next (s.went (ilen f.ext) r)
         ∧ WroteScal s.th.regs r f.d.toNat x ∧ ∀ l, l < 64 → (x.getLsbD l = true ↔ l < 32 ∧ p l)))
  ∧ (∀ (f : Alu) (s : State), s.th.act f.guard ≠ 0 →
       let act := s.th.act f.guard
       let a (l : Nat) : Nat := s.env.a f f.ty.width l
       ∃ (m : Nat → Word) (r : Regs), exec (.matchOp f) s = .next (s.went (ilen f.ext) r)
         ∧ (∀ l j, j < 32 → ((m l).getLsbD j = true ↔ act.getLsbD j = true ∧ a j = a l))
         ∧ WroteVec s.th.regs r f.d.toNat 32 act fun l => if f.sub = 0 ∨ m l = act then (m l).toNat else 0)

/-- R115, R116: GRED writes the reduction of the active lanes to a scalar and GSCAN each lane's prefix; for the integer types
a sum is exact before it is finished, so the last lane of an inclusive scan holds the reduction. An `.f32` sum of GRED goes by the tree
over lane positions, `node` being its levels, and rounds at each step; `.min`, `.max`, `.and`, `.or` and `.xor` do not depend on order.
GSCAN goes from lane to lane by `step`, rounding at each step of an `.f32` sum, and an exclusive scan starts at the identity. -/
def Obligations.ReductionsAndScans : Prop :=
  (∀ (f : Alu) (s : State),
    let x (l : Nat) : Nat := (s.th.regs.vec f.a.toNat l).toNat
    ScalDone (.gred f) f.guard (ilen f.ext) f.d.toNat s (BitVec.ofNat 64 (fill f.ty (reduce f (s.th.act f.guard) x)))
    ∧ VecDone (.gscan f) f.guard (ilen f.ext) f.d.toNat 32 s fun l =>
        Tab.get 0 (scanLanes f (f.sub.getLsbD 3) x (lanesOf (s.th.act f.guard)) none) l)
  ∧ ∀ (f : Alu) (act : Mask) (x : Nat → Nat), (f.ty = .i32 ∨ f.ty = .n32) → f.sub.toNat % 8 = 0 →
      reduce f act x = finish f.sat f.ty (((lanesOf act).map fun l => tyVal f.ty (x l)).sum)
      ∧ (∀ l, l ∈ lanesOf act →
          Tab.get 0 (scanLanes f false x (lanesOf act) none) l
            = finish f.sat f.ty ((((lanesOf act).filter (· ≤ l)).map fun i => tyVal f.ty (x i)).sum)
          ∧ Tab.get 0 (scanLanes f true x (lanesOf act) none) l
            = finish f.sat f.ty ((((lanesOf act).filter (· < l)).map fun i => tyVal f.ty (x i)).sum))
  ∧ ∀ (f : Alu) (act : Mask) (x : Nat → Nat), act ≠ 0 → (∀ l, x l < 2 ^ 32) → (f.ty = .i32 ∨ f.ty = .n32 ∨ f.ty = .f32 ∨ f.ty = .b32) →
      let op := f.sub.toNat % 8
      let add (a b : Nat) : Nat := fmtF32.rnd .rn false ((fmtF32.fv a).add .rn (fmtF32.fv b))
      let step (a b : Nat) : Nat :=
        if op = 0 then add a b
        else if op = 1 then (if f.ty = .f32 then fmtF32.minmax true false a b else if tyVal f.ty a ≤ tyVal f.ty b then a else b)
        else if op = 2 then (if f.ty = .f32 then fmtF32.minmax false false a b else if tyVal f.ty a ≤ tyVal f.ty b then b else a)
        else if op = 3 then a &&& b else if op = 4 then a ||| b else a ^^^ b
      let first : Nat :=
        if op = 1 then (if f.ty = .f32 then 0x7F800000 else if f.ty = .i32 then 0x7FFFFFFF else 0xFFFFFFFF)
        else if op = 2 then (if f.ty = .f32 then 0xFF800000 else if f.ty = .i32 then 0x80000000 else 0)
        else if op = 3 then 0xFFFFFFFF else 0
      let run (ls : List Nat) : Nat := match ls with | [] => first | i :: t => t.foldl (fun a j => step a (x j)) (x i)
      let sum : Prop := op = 0 ∧ f.ty = .f32
      (sum → ∀ node : Nat → Nat → Option Nat,
        (∀ i, node 0 i = if act.getLsbD i then some (x i) else none) →
        (∀ k i, node (k + 1) i = match node k i, node k (i + 2 ^ k) with
          | some a, some b => some (add a b)
          | some a, none => some a
          | none, b => b) →
        reduce f act x = fmtF32.rnd .rn false (fmtF32.fv ((node 5 0).getD 0)))
      ∧ ((op = 1 ∨ op = 2) → ∀ ls : List Nat, ls.Perm (lanesOf act) →
          tyVal f.ty (reduce f act x) = tyVal f.ty (run ls) ∧ (f.ty = .f32 → reduce f act x = run ls))
      ∧ ((op = 1 ∨ op = 2) → f.ty ≠ .f32 →
          (∃ l ∈ lanesOf act, reduce f act x = x l)
          ∧ ∀ l ∈ lanesOf act, if op = 1 then tyVal f.ty (reduce f act x) ≤ tyVal f.ty (x l)
              else tyVal f.ty (x l) ≤ tyVal f.ty (reduce f act x))
      ∧ (∀ j, (op = 3 → (reduce f act x).testBit j = (lanesOf act).all fun l => (x l).testBit j)
          ∧ (op = 4 → (reduce f act x).testBit j = (lanesOf act).any fun l => (x l).testBit j)
          ∧ (op = 5 → (reduce f act x).testBit j
              = ((((lanesOf act).filter fun l => (x l).testBit j).length % 2 : Nat) == 1)))
      ∧ ((sum ∨ (1 ≤ op ∧ op ≤ 5)) → ∀ l ∈ lanesOf act,
          Tab.get 0 (scanLanes f false x (lanesOf act) none) l = run ((lanesOf act).filter (· ≤ l))
          ∧ Tab.get 0 (scanLanes f true x (lanesOf act) none) l = run ((lanesOf act).filter (· < l)))

/-! ### Control flow -/

/-- R123, R137: a branch that every live lane takes moves the PC alone. When live lanes fall through, they go on at the next
word, the lanes that take the branch wait on the stack, and a join entry, unless it is there already, keeps both. -/
def Obligations.BranchDiverges : Prop :=
  ∀ (f : BraOp) (s : State), s.th.act f.guard ≠ 0 →
    let act := s.th.act f.guard
    let fl := s.th.exec &&& ~~~act
    let target := 8 * ((s.th.pc / 8 : Nat) + 2 + f.target.toInt).toNat
    ∃ t, exec (.bra f) s = .next t ∧ t.th.regs = s.th.regs ∧ t.th.live = s.th.live ∧ t.th.ended = s.th.ended
      ∧ (fl &&& s.th.live = 0 → t.th.pc = target ∧ t.th.exec = s.th.exec ∧ t.th.stack = s.th.stack)
      ∧ (fl &&& s.th.live ≠ 0 → t.th.pc = s.th.pc + 16 ∧ t.th.exec = fl ∧ t.th.strand = fl
          ∧ fl ||| act = s.th.exec ∧ fl &&& act = 0
          ∧ t.th.stack = .pending target act false ::
              match (s.kernelOf s.grp).joinOf s.th.body (s.th.pc / 8) with
              | none => s.th.stack
              | some w => if topJoin s.th.stack = some (8 * w) then s.th.stack else .join (8 * w) s.th.exec :: s.th.stack)

/-- R138: BRX to base words of the body. Where the active lanes name one target and no live lane falls through, the BRX is
uniform and nothing is pushed. Otherwise the strand that falls through runs first, else that of the least target, and every other
target has a pending entry on the join entry, in ascending order, with exactly the lanes that name it. Dead lanes of `exec` stay in
`exec` where the BRX is uniform, and in the strand that falls through (DEDUCED, log entry 55). -/
def Obligations.IndexedBranch : Prop :=
  ∀ (f : BrxOp) (s : State), s.th.act f.guard ≠ 0 →
    let act := s.th.act f.guard
    let fl := s.th.exec &&& ~~~act
    let tgt (l : Nat) : Nat := (s.th.regs.vec f.a.toNat l).toNat
    let on (l : Nat) : Prop := l < 32 ∧ act.getLsbD l = true
    let base := pushJoin (some (s.th.target f.join / 8)) s.th.exec s.th.stack
    let keeps (st : List Entry) (p : Nat → Prop) : Prop := ∃ vs : List (Nat × Mask),
      st = vs.map (fun x => .pending x.1 x.2 false) ++ base ∧ (vs.map (·.1)).Pairwise (· < ·)
      ∧ ∀ v m, (v, m) ∈ vs ↔ p v ∧ (∃ l, on l ∧ tgt l = v) ∧ ∀ j, j < 32 → (m.getLsbD j = true ↔ on j ∧ tgt j = v)
    (∀ l, on l → tgt l % 8 = 0 ∧ (s.kernelOf s.grp).inBody s.th.body (tgt l / 8) = true) →
    ∃ t, exec (.brx f) s = .next t ∧ t.th.regs = s.th.regs ∧ t.th.live = s.th.live ∧ t.th.ended = s.th.ended
      ∧ (fl &&& s.th.live ≠ 0 → t.th.pc = s.th.pc + 16 ∧ t.th.exec = fl ∧ t.th.strand = fl ∧ keeps t.th.stack fun _ => True)
      ∧ (fl &&& s.th.live = 0 → (∃ l, on l ∧ t.th.pc = tgt l) ∧ (∀ l, on l → t.th.pc ≤ tgt l)
          ∧ ((∀ l, on l → tgt l = t.th.pc) → t.th.exec = s.th.exec ∧ t.th.strand = s.th.strand ∧ t.th.stack = s.th.stack)
          ∧ ∀ m, on m → tgt m ≠ t.th.pc → (∀ j, j < 32 → (t.th.exec.getLsbD j = true ↔ on j ∧ tgt j = t.th.pc))
              ∧ t.th.strand = t.th.exec ∧ keeps t.th.stack fun v => v ≠ t.th.pc)

/-- R127, R139: CALL, and CALLX whose active lanes name functions, start the function of the least index with the lanes that name it and a
new register file that holds the arguments alone, and push a frame that keeps the caller, the ranges of the result, and the calls of the
other indices in ascending order. At depth 1,024 both raise STACK_LIMIT; an index that names no function raises ILLEGAL_PC with the index
of the lowest such lane in `faultva`. That an argument register reads zero in the lanes that did not call is the model's choice (DESIGN
CHOICE, log entry 54), and so are `faultva` 0 (log entry 53) and the lane mask 0 (DEDUCED, log entry 77) of STACK_LIMIT, the lane that
ILLEGAL_PC names (DEDUCED, log entry 34) and the pc of a group that a debugger halts (DEDUCED, log entry 30). -/
def Obligations.CallEnters : Prop :=
  ∀ (f : CallOp) (s : State) (i : Instr), s.th.act f.guard ≠ 0 →
    let k := s.kernelOf s.grp
    let act := s.th.act f.guard
    let idx (l : Nat) : Nat := (s.th.regs.vec f.imm.toNat l).toNat
    let on (l : Nat) : Prop := l < 32 ∧ act.getLsbD l = true
    let isFunc (j : Nat) : Prop := ∃ e, k.entries[j]? = some e ∧ e.kind = 2
    let word (j : Nat) : Nat := ((k.entries[j]?).getD ⟨0, 0⟩).woff
    (∀ (w : Nat) (m : Mask) (js : List Nat), s.th.depth < 1024 →
      (i = .call f ∧ w = ((s.th.pc / 8 : Nat) + 2 + f.imm.toInt).toNat ∧ m = act ∧ js = [])
        ∨ (i = .callx f ∧ (∀ l, on l → isFunc (idx l)) ∧ ∃ n, w = word n ∧ (∃ l, on l ∧ idx l = n)
            ∧ (∀ l, l < 32 → (m.getLsbD l = true ↔ on l ∧ idx l = n))
            ∧ (n :: js).Pairwise (· < ·) ∧ ∀ j, j ∈ n :: js ↔ ∃ l, on l ∧ idx l = j) →
      ∃ t fr, exec i s = .next t ∧ t.th.pc = 8 * w ∧ t.th.body = k.bodyOf w ∧ t.th.exec = m ∧ t.th.strand = m
        ∧ t.th.depth = s.th.depth + 1 ∧ t.th.stack = .frame fr :: s.th.stack ∧ fr.ret = s.th.pc + 16 ∧ fr.exec = s.th.exec
        ∧ fr.regs = s.th.regs ∧ fr.body = s.th.body ∧ fr.returned = 0
        ∧ fr.rng.d = f.d.toNat ∧ fr.rng.nr = f.nr.toNat ∧ fr.rng.c = f.c.toNat ∧ fr.rng.nsr = f.nsr.toNat
        ∧ fr.more.map (·.1) = js.map word
        ∧ (∀ (p j l : Nat) (x : Nat × Mask), js[p]? = some j → fr.more[p]? = some x → l < 32 → (x.2.getLsbD l = true ↔ on l ∧ idx l = j))
        ∧ (∀ j l, l < 32 → t.th.regs.vec j l =
            if j < f.na.toNat ∧ m.getLsbD l = true then s.th.regs.vec (f.a.toNat + j) l else 0)
        ∧ (∀ j, t.th.regs.scal j = if j < f.ns.toNat then s.th.regs.scal (f.b.toNat + j) else 0)
        ∧ ∀ j, j ≠ 15 → t.th.regs.pred j = 0)
    ∧ (s.Outside → s.grp.hnd = none →
      (1024 ≤ s.th.depth → i = .call f ∨ (i = .callx f ∧ ∀ l, on l → isFunc (idx l)) → Faults i s s 16 0x0F 0 0)
      ∧ ∀ l, i = .callx f → on l → ¬isFunc (idx l) → (∀ j, j < l → on j → isFunc (idx j)) →
          Faults i s s 16 0x02 (BitVec.ofNat 64 (idx l)) (laneBit l))

/-- R140: RET writes its results to the registers that the call named, in the returning lanes, and those lanes leave the
function; the caller's other registers, and the entries above and below the frame, stay. -/
def Obligations.ReturnWritesResults : Prop :=
  ∀ (f : RetOp) (s : State) (fr : Frame) (above r : List Entry), s.th.act f.guard ≠ 0 →
    s.th.stack = above ++ .frame fr :: r → (∀ e ∈ above, ∀ x, e ≠ .frame x) →
    let act := s.th.act f.guard
    let k := min f.nr.toNat fr.rng.nr
    let ks := min f.nsr.toNat fr.rng.nsr
    ∃ t fr', exec (.ret f) s = .next t ∧ t.th.pc = s.th.pc + ilen f.ext ∧ t.th.exec = s.th.exec &&& ~~~act
      ∧ t.th.stack = above ++ .frame fr' :: r ∧ fr'.returned = fr.returned ||| act ∧ fr'.ret = fr.ret ∧ fr'.exec = fr.exec
      ∧ (∀ i l, l < 32 → fr'.regs.vec i l =
          if fr.rng.d ≤ i ∧ i < fr.rng.d + k ∧ i ≠ 16383 ∧ act.getLsbD l = true then
            s.th.regs.vec (f.a.toNat + (i - fr.rng.d)) l else fr.regs.vec i l)
      ∧ (∀ i, fr'.regs.scal i =
          if fr.rng.c ≤ i ∧ i < fr.rng.c + ks ∧ i ≠ 16383 then s.th.regs.scal (f.b.toNat + (i - fr.rng.c))
          else fr.regs.scal i)
      ∧ fr'.regs.p = fr.regs.p

/-- R141, R237: END ends the active lanes in every mask of the group; when it would end the last ones it first waits for the
group's engine operations, and then joins them: none of their writes is left to enter the view. -/
def Obligations.EndEndsLanes : Prop :=
  ∀ (f : GuardOp) (s : State), s.th.act f.guard ≠ 0 → s.Outside →
    let act := s.th.act f.guard
    let s' := s.flush s.cur
    let ops := s'.opsOf s.cur
    (((s'.th.endLanes act).spent = false ∨ (∀ o ∈ ops, o.2.st = .finished) ∧ ∀ o, (s'.op o).fault = none) →
      ∃ t, exec (.endOp f) s = .next t
      ∧ t.th.pc = s.th.pc + ilen f.ext ∧ t.th.ended = s.th.ended ||| act ∧ t.th.exec = s.th.exec &&& ~~~act
      ∧ t.th.live = s.th.live ∧ t.th.regs = s.th.regs
      ∧ (∀ e ∈ t.th.stack, match e with
          | .join _ m | .pending _ m _ => m &&& act = 0
          | .frame fr => fr.exec &&& act = 0
          | .tryE _ => True)
      ∧ ((s'.th.endLanes act).spent = true → ∀ o ∈ ops, (t.op o.1).grp = s.cur → (t.op o.1).joined = true ∧ (t.op o.1).wrote = []))
    ∧ ((s'.th.endLanes act).spent = true → (∃ o ∈ ops, o.2.st ≠ .finished) →
        exec (.endOp f) s = .next (s'.waitHere .endJoin))

/-- R142: SPAWN makes as many groups as are asked for, at most 16, and there are free pool slots; it tells how many, and each
starts at the entry with the parameter and its index. -/
def Obligations.SpawnCreates : Prop :=
  ∀ (f : SpawnOp) (s : State), s.th.act Guard.always ≠ 0 → s.Outside →
    let s' := s.flush s.cur
    let asked := min (s.env.uval f.b 64) 16
    let free := (List.range 16).filter fun i => ((s'.core s.grp.core).pool.find? i).isNone
    let made := min asked free.length
    let woff := (((s.kernelOf s.grp).entries[f.entry.toNat]?).getD ⟨0, 0⟩).woff
    ∃ t, exec (.spawn f) s = .next t ∧ t.th.pc = s.th.pc + 16
      ∧ WroteScal s.th.regs t.th.regs f.d.toNat (BitVec.ofNat 64 made)
      ∧ ∀ i, i < made → ∃ g, s.groups.find? g = none ∧ (t.group g).th.pc = 8 * woff ∧ (t.group g).retired = false
          ∧ (t.group g).th.exec = s.grp.allLanes ∧ (t.group g).th.regs.scal 0 = s.th.regs.scal f.a.toNat
          ∧ (t.group g).th.regs.scal 1 = BitVec.ofNat 64 i ∧ (t.group g).block = s.grp.block
          ∧ (t.core s.grp.core).pool.find? ((t.group g).grpid - 32) = some g

/-- R145: NOP has no effect. It completes, the PC moves on, and nothing else changes. -/
def Obligations.NopDoesNothing : Prop :=
  ∀ (f : PlainOp) (s : State), exec (.nop f) s = .next (s.went (ilen f.ext) s.th.regs)

/-- R144, R147: outside a region, YIELD completes and lets the group wait; NPBEG sets NP, and NPEND clears it. -/
def Obligations.YieldAndNoPreempt : Prop :=
  ∀ (f : PlainOp) (s : State), s.th.act Guard.always ≠ 0 → s.Outside →
    let plain (t : State) : Prop := t.th.pc = s.th.pc + ilen f.ext ∧ t.th.regs = s.th.regs ∧ t.th.exec = s.th.exec
      ∧ t.th.stack = s.th.stack
    (∃ t, exec (.yield f) s = .next t ∧ plain t ∧ t.grp.wait = .yield ∧ t.grp.np = s.grp.np)
    ∧ (∃ t, exec (.npbeg f) s = .next t ∧ plain t ∧ t.grp.np = true)
    ∧ (∃ t, exec (.npend f) s = .next t ∧ plain t ∧ t.grp.np = false)

/-! ### Faults and handlers -/

/-- R331, R333, R335, R350: delivering a fault to a group that is in no handler, by the action of its context's table. The pc of a
group that a debugger halts is the model's reading (DEDUCED, log entry 30). -/
def Obligations.FaultDelivery : Prop :=
  ∀ (s : State) (g : Nat) (f : FaultInfo), (s.group g).hnd = none → TookFault s (s.deliver g f) g f

/-- R146, R337: TRAP and BKPT take their fault with the active lanes and the trap code, and every return goes to the next
word. That `faultva` is 0 is the model's choice (DESIGN CHOICE, log entry 53), and the pc of a group that a debugger halts its reading
(DEDUCED, log entry 30). -/
def Obligations.TrapTakesFault : Prop :=
  ∀ (f : TrapOp) (s : State), s.th.act f.guard ≠ 0 → s.Outside → s.grp.hnd = none →
    let pc := s.th.pc
    let next := pc + ilen f.ext
    (∃ t, exec (.trap f) s = .next t
      ∧ TookFault (s.flush s.cur) t s.cur ⟨0x12, 0, s.th.act f.guard, f.code, pc, next, next, 0, false⟩)
    ∧ ∃ t, exec (.bkpt f) s = .next t
      ∧ TookFault (s.flush s.cur) t s.cur ⟨0x13, 0, s.th.act f.guard, f.code, pc, next, next, 0, false⟩

/-- R337, R348: each form of RTE leaves the handler, whose registers are gone. Plain RTE and `.skip` go on with the
interrupted thread, whose registers and masks are as the handler left them, at the two PCs that the fault kept; `.end`
ends every live lane; `.abort` terminates the grid. -/
def Obligations.ReturnFromHandler : Prop :=
  ∀ (f : PlainOp) (s : State) (h : Handler), s.grp.hnd = some h →
    (∃ t, exec (.rte f) s = .next t ∧ t.grp.hnd = none ∧ t.th = { h.outer with pc := h.fault.rte }
      ∧ t.grp.faultc = s.grp.faultc ∧ t.grp.stkptr = s.grp.stkptr)
    ∧ (∃ t, exec (.rteSkip f) s = .next t ∧ t.grp.hnd = none ∧ t.th = { h.outer with pc := h.fault.skip }
      ∧ t.grp.faultc = s.grp.faultc ∧ t.grp.stkptr = s.grp.stkptr)
    ∧ (∃ t, exec (.rteEnd f) s = .next t ∧ t.grp.hnd = none ∧ t.th.regs = h.outer.regs ∧ t.th.spent = true)
    ∧ (∃ t, exec (.rteAbort f) s = .next t ∧ (t.launch (s.block s.grp.block).launch).aborted = true
      ∧ (t.launch (s.block s.grp.block).launch).status = 0x51 ∧ t.grp.retired = true)

/-- R184, R207, R331: an access of which a lane is misaligned, and every lane before it passes its checks, performs nothing and takes
MISALIGNED for that lane, with its address in the 56-bit `faultva`; the lanes after it do not matter. Translating the pages named may
take free values (R159; which walks come is the model's choice: DESIGN CHOICE, log entry 13). The 56 bits of `faultva` are its reading
(DEDUCED, log entry 51), and so is the pc of a group that a debugger halts (DEDUCED, log entry 30). -/
def Obligations.MisalignedFaults : Prop :=
  ∀ (s : State), s.Outside → s.grp.hnd = none →
    let faults (i : Instr) (lanes : List Nat) (n size : Nat) (ea : Nat → Nat) (passes : Nat → Prop) (s' : State) : Prop :=
      ∀ l, l ∈ lanes → ea l % size ≠ 0 → (∀ j, j ∈ lanes → j < l → passes j) →
      Faults i s s' n 0x06 (BitVec.ofNat 64 (ea l)) (laneBit l)
    (∀ (f : MemOp), s.th.act f.guard ≠ 0 →
      let size := accSize f.acc
      let lanes := accessLanes (s.th.act f.guard) f.su
      let go (i : Instr) (sp : MSpace) (u : Use) : Prop :=
        let ea := s.env.ea f.a f.vb (sp != .own) f.addr
        let (rs, s') := s.targets sp size u ea lanes
        faults i lanes (ilen f.ext) size ea (fun j => ∃ t, (j, .ok t) ∈ rs) s'
      go (.ld f) .glob .load ∧ go (.st f) .glob .store ∧ go (.ldp f) .peer .load ∧ go (.stp f) .peer .store
      ∧ go (.lds f) .own .load ∧ go (.sts f) .own .store
      ∧ faults (.ldc f) lanes (ilen f.ext) size (s.env.ea f.a f.vb false f.addr)
          (fun j => s.env.ea f.a f.vb false f.addr j % size = 0) s)
    ∧ ∀ (f : AtomOp), s.th.act f.guard ≠ 0 →
      let size := f.ty.width / 8
      let lanes := accessLanes (s.th.act f.guard) f.su
      let s1 := s.flush s.cur
      let go (i : Instr) (sp : MSpace) (cas : Bool) : Prop :=
        let ea := s.env.ea f.a f.vb (sp != .own) f.addr
        let (rs, s') := s1.targets sp size .store ea lanes
        faults i lanes 16 size ea (fun j => ∃ r t, (j, r) ∈ rs ∧ s'.atomTarget f cas r = .ok t) s'
      go (.atom f) .glob false ∧ go (.atoms f) .own false ∧ go (.atomp f) .peer false
      ∧ go (.acas f) .glob true ∧ go (.acass f) (if f.ps then .peer else .own) true
      ∧ go (.red f) .glob false ∧ go (.reds f) (if f.ps then .peer else .own) false

/-! ### Memory -/

/-- R183, R185: LD, LDS and LDP whose lanes pass their checks write the bytes read, widened, and change no byte of memory; LDC writes
bytes of the launch's constant bank, zero at or beyond CONSTLEN. Each completes in the lanes that received no poisoned byte, and kills the
others; that the bank's bytes keep the poison of where they were read is R379's. That `faultva` of UNCORRECTABLE is 0 is the model's
choice (DESIGN CHOICE, log entry 53), and so is the pc of a group that a debugger halts (DEDUCED, log entry 30). -/
def Obligations.LoadsComplete : Prop :=
  (∀ (f : MemOp) (s s1 s2 : State) (ts : List (Nat × Target)) (vs : List (Nat × Target × List MByte)),
     let act := s.th.act f.guard
     let n := accSize f.acc
     act ≠ 0 → s.Outside →
     let loads (i : Instr) (sp : MSpace) : Prop :=
       s.Reaches sp n .load (s.env.ea f.a f.vb (sp != .own) f.addr) (accessLanes act f.su) ts s1 →
       s1.loadAll n (f.pol == .home) ts = (vs, s2) →
       ((∀ v ∈ vs, anyPoison v.2.2 = false) → ∃ (r : Regs) (t : State), exec i s = .next t ∧ KeepsThreads s t (ilen f.ext) r
         ∧ WroteLanes s.th.regs r f.su f.d.toNat (if f.acc == .b64 then 64 else 32) act
             (vs.map fun v => (v.1, (widen f.acc v.2.2).toNat))
         ∧ ∀ a, t.homeByte a = s.homeByte a)
       ∧ ((∃ v ∈ vs, anyPoison v.2.2 = true) → s.grp.hnd = none → PoisonKills i f s s2 (vs.map fun v => (v.1, v.2.2)))
     loads (.ld f) .glob ∧ loads (.lds f) .own ∧ loads (.ldp f) .peer)
  ∧ (∀ (f : MemOp) (s : State),
       let act := s.th.act f.guard
       let n := accSize f.acc
       let ea (l : Nat) : Nat := s.env.ea f.a f.vb false f.addr l
       act ≠ 0 → (∀ l, l < 32 → act.getLsbD l = true → ea l % n = 0) →
       let vs := (accessLanes act f.su).map fun l => (l, s.constBytes (ea l) n)
       ((∀ v ∈ vs, anyPoison v.2 = false) → ∃ r, exec (.ldc f) s = .next (s.went (ilen f.ext) r)
         ∧ WroteLanes s.th.regs r f.su f.d.toNat (if f.acc == .b64 then 64 else 32) act
             ((accessLanes act f.su).map fun l =>
               (l, (widen f.acc (leMBytes n (leVal ((List.range n).map fun i => (s.bank[ea l + i]?).getD 0)))).toNat)))
       ∧ ((∃ v ∈ vs, anyPoison v.2 = true) → s.Outside → s.grp.hnd = none → PoisonKills (.ldc f) f s s vs)
       ∧ ∀ (a i : Nat), i < n → (anyPoison (s.constBytes a n) = true ↔ ∃ j, j < n ∧ a + j ∈ s.badBank))

/-- R175, R183, R213, R324: ST, STS and STP whose lanes pass their checks join the channel writes below a watermark and hold
back one store for each lane, in lane order, at the lane's own target, with a note whether the instruction writes the whole 32-byte
sector (R379; that all its lanes count together is DEDUCED, log entry 8); registers and every byte of memory stay as they are until
the stores enter the view. R306, R308: a lane in RM stores into the region's buffer instead; lanes that find no entry left abort with
OVERFLOW, else those that alias with ALIAS. -/
def Obligations.StoresComplete : Prop :=
  ∀ (f : MemOp) (s s1 : State) (ts : List (Nat × Target)),
    let act := s.th.act f.guard
    let own := act &&& s.grp.rm
    let n := accSize f.acc
    act ≠ 0 →
    let data (l : Nat) : Nat :=
      (if f.su then s.th.regs.scal f.d.toNat
       else if f.acc == .b64 then s.th.regs.vec64 f.d.toNat l else (s.th.regs.vec f.d.toNat l).setWidth 64).toNat
    let whole (t : Target) : Bool :=
      ((ts.map (·.2.loc)).eraseDups.filter fun a => a / 32 == t.loc / 32).length * n == 32
    let st (x : Nat × Target) : Write := ⟨x.2.loc, leMBytes n (data x.1), BitVec.ofNat 64 x.2.va, whole x.2⟩
    let done (i : Instr) (out : List (Nat × Target)) (r : Region) : Prop :=
      ∃ t, exec i s = .next t ∧ KeepsThreads s t (ilen f.ext) s.th.regs ∧ t.grp.gated = s.grp.gated ++ out.map st
        ∧ t.grp.region = r ∧ t.cores = (ts.foldl (fun s x => s.joinBelow s.grp.block x.2.va x.2.loc n) s1).cores
        ∧ ∀ a, t.homeByte a = s.homeByte a
    let stores (i : Instr) (sp : MSpace) : Prop :=
      (s.Outside → s.Reaches sp n .store (s.env.ea f.a f.vb (sp != .own) f.addr) (accessLanes act f.su) ts s1 →
        done i ts s.grp.region)
      ∧ (own ≠ 0 → s.Reaches sp n .store (s.env.ea f.a f.vb (sp != .own) f.addr) (regionLanes act own f.su) ts s1 →
          let r := s.grp.region
          let mine := ts.filter fun x => own.getLsbD x.1
          let lines := mine.map fun x => (x.1, x.2.line)
          let spills := Spills 32 r.storeLines lines
          let aliases := Aliases r.readers (fun x => r.writers x ||| lineLanes lines x) lines
          (∀ x ∈ mine, x.2.unsup = false) → r.storeLines.length ≤ 32 →
          ((∃ l, spills l) → AbortsBy i s spills 3)
          ∧ ((∀ l, ¬spills l) → (∃ l, aliases l) → AbortsBy i s aliases 2)
          ∧ ((∀ l, ¬spills l) → (∀ l, ¬aliases l) →
              done i (ts.filter fun x => !own.getLsbD x.1)
                { r with buffer := r.buffer ++ mine.map fun x => ⟨x.1, x.2.line, st x⟩ }))
    stores (.st f) .glob ∧ stores (.sts f) .own ∧ stores (.stp f) .peer

/-- R166, R175: a lane that stores 32 bits in its scratchpad, where no other lane's store overlaps and no byte of the access is marked as poisoned,
loads them back. R306, R308: in a region a load of a lane in RM finds the newest of its own buffered bytes, if there is one, in place of
each byte it reads, and its line joins the read set; lanes whose lines come back poisoned abort with UE, else those that find no entry
left with OVERFLOW, else those that alias with ALIAS. -/
def Obligations.StoreThenLoad : Prop :=
  (∀ (f : MemOp) (d : Idx) (s : State) (l : Nat),
    let act := s.th.act f.guard
    let ea (j : Nat) : Nat := s.env.ea f.a f.vb false f.addr j
    f.acc = .b32 → f.su = false → d.toNat ≠ 16383 → l < 32 → act.getLsbD l = true → s.Outside →
    (s.block s.grp.block).chans = [] →
    (∀ j, j < 32 → act.getLsbD j = true → ea j % 4 = 0 ∧ ea j + 4 ≤ s.scratchOf s.grp.block) →
    (∀ j, j < 32 → act.getLsbD j = true → j ≠ l → ea j + 4 ≤ ea l ∨ ea l + 4 ≤ ea j) →
    (∀ w ∈ s.grp.gated, anyPoison w.bytes = false) →
    (∀ j, j < 32 → act.getLsbD j = true → ∀ i, i < 4 → let a := scratchKey s.grp.block + ea j + i
      s.viewMark (s.core s.grp.core) a = false ∧ (s.core s.grp.core).badCopy.has a = false) →
    ∃ t u, exec (.sts f) s = .next t ∧ exec (.lds { f with d := d }) t = .next u
      ∧ u.th.regs.vec d.toNat l = s.th.regs.vec f.d.toNat l)
  ∧ (∀ (r : Region) (lane loc i : Nat) (bs : List MByte) (b : MByte),
      let covers (y : BufStore) : Prop := y.lane = lane ∧ y.w.loc ≤ loc + i ∧ loc + i < y.w.loc + y.w.bytes.length
      bs[i]? = some b →
      ((∀ y ∈ r.buffer, ¬covers y) → (r.overlay lane loc bs)[i]? = some b)
      ∧ ∀ before y after c, r.buffer = before ++ y :: after → covers y → y.w.bytes[loc + i - y.w.loc]? = some c →
          (∀ z ∈ after, ¬covers z) → ∃ m, (r.overlay lane loc bs)[i]? = some m ∧ m.val = c.val)
  ∧ ∀ (f : MemOp) (s s1 s2 : State) (ts : List (Nat × Target)) (vs : List (Nat × Target × List MByte)),
      let act := s.th.act f.guard
      let own := act &&& s.grp.rm
      let n := accSize f.acc
      let r := s.grp.region
      let mine := (ts.filter fun x => own.getLsbD x.1)
      let lines := (mine.filter fun x => !x.2.view).map fun x => (x.1, x.2.line)
      let got (v : Nat × Target × List MByte) : List MByte :=
        if own.getLsbD v.1 && !v.2.1.view then r.overlay v.1 v.2.1.loc v.2.2 else v.2.2
      let spills := Spills 256 (r.reads.map (·.line)) lines
      let aliases := Aliases (fun x => r.readers x ||| lineLanes lines x) r.writers lines
      let poisoned (l : Nat) : Prop := ∃ v ∈ vs, own.getLsbD v.1 = true ∧ anyPoison (got v) = true
        ∧ ((r.readers v.2.1.line).getLsbD l = true ∨ ∃ x ∈ mine, x.1 = l ∧ x.2.line = v.2.1.line)
      let loads (i : Instr) (sp : MSpace) : Prop :=
        s.Reaches sp n .load (s.env.ea f.a f.vb (sp != .own) f.addr) (regionLanes act own f.su) ts s1 →
        s1.loadAll n (f.pol == .home) ts = (vs, s2) → own ≠ 0 → (∀ x ∈ mine, x.2.unsup = false) →
        ((∃ l, poisoned l) → AbortsBy i s poisoned 9)
        ∧ ((∀ v ∈ vs, anyPoison (got v) = false) → r.reads.length ≤ 256 → (r.reads.map (·.line)).Nodup →
            ((∃ l, spills l) → AbortsBy i s spills 3)
            ∧ ((∀ l, ¬spills l) → (∃ l, aliases l) → AbortsBy i s aliases 2)
            ∧ ((∀ l, ¬spills l) → (∀ l, ¬aliases l) → ∃ (g : Regs) (t : State), exec i s = .next t ∧ KeepsThreads s t (ilen f.ext) g
                ∧ WroteLanes s.th.regs g f.su f.d.toNat (if f.acc == .b64 then 64 else 32) (if f.su then own else act)
                    (vs.map fun v => (v.1, (widen f.acc (got v)).toNat))
                ∧ t.grp.region = { r with reads := t.grp.region.reads }
                ∧ (∀ x, t.grp.region.readers x = r.readers x ||| lineLanes lines x)
                ∧ ∀ a, t.homeByte a = s.homeByte a))
      loads (.ld f) .glob ∧ loads (.lds f) .own ∧ loads (.ldp f) .peer

/-- R324: a group's oldest gated store enters its core's view as one store, whose bytes keep the poison that the view has of a
sector that they do not fill (R379; DEDUCED, log entry 8), and that of a cached copy which a scrub has found bad (DESIGN CHOICE, log entry 84);
no byte of memory changes. R168: RELEASE_COMPLETE publishes, in order,
what is left of the stores of a core's oldest release, and the release is done from then on; of those stores that have no place yet
each byte of memory takes the value of the last that writes it, and every other byte keeps its value. -/
def Obligations.StoresEnterAndRelease : Prop :=
  (∀ (s : State) (g : Nat) (w : Write) (rest : List Write), (s.group g).gated = w :: rest →
     let c := (s.group g).core
     let k := s.core c
     let hit := (s.copyHit k w.loc w.bytes.length).1
     let bytes := mergeMarks (fun a => s.viewMark k a || (hit && k.badCopy.has a)) w.loc w.bytes w.whole
     ∃ t, exec (.storeEntersView g) s = .next t ∧ (t.group g).gated = rest ∧ (t.group g).th = (s.group g).th
       ∧ bytes.map (·.val) = w.bytes.map (·.val)
       ∧ (∀ i b, bytes[i]? = some b → (t.core c).view.find? (w.loc + i) = some ⟨b.val, b.poison, 0, s.nextSid⟩)
       ∧ (∀ a, (a < w.loc ∨ w.loc + w.bytes.length ≤ a) → (t.core c).view.find? a = (s.core c).view.find? a)
       ∧ (t.core c).stores = (s.core c).stores ++ [⟨s.nextSid, g, { w with bytes := bytes }, 0, 0, 0, false⟩]
       ∧ (∀ k, k ≠ c → t.core k = s.core k) ∧ ∀ a, t.homeByte a = s.homeByte a)
  ∧ (∀ (s : State) (c m : Nat) (rest : List Nat) (r : RelRec), (s.core c).rels = m :: rest → s.rels.find? m = some r →
       let u := r.todo.foldl (fun (x : State) sid => x.publish c sid m) s
       let writes (a sid : Nat) : Option Byte := ((s.core c).stores.find? (·.sid == sid)).bind fun st =>
         if st.w.loc ≤ a ∧ a < st.w.loc + st.w.bytes.length then (st.w.bytes[a - st.w.loc]?).map (·.val) else none
       ∃ t, exec (.releaseComplete c) s = .next t ∧ t.rels.find? m = some { r with todo := [], done := true }
         ∧ (∃ k, (t.core c).rels = rest.drop k)
         ∧ (∀ a, t.homeByte a = u.homeByte a) ∧ t.hist = u.hist ∧ (t.core c).stores = (u.core c).stores
         ∧ (t.core c).view = (u.core c).view
         ∧ (s.Inv → r.todo.Nodup → (∀ sid ∈ r.todo, ∃ st, (s.core c).stores.find? (·.sid == sid) = some st ∧ st.seq = 0) →
             ∀ a, (t.homeByte a).val = ((r.todo.filterMap (writes a)).getLast?).getD (s.homeByte a).val))

/-- R167, R168: publishing a store that has no place yet makes its bytes the newest of their locations, and changes no other
byte of memory. R86, R223: two additions to an accumulator leave the sum modulo 2^128, in whichever order they are made. -/
def Obligations.BytesAtHome : Prop :=
  (∀ (s : State) (c sid m : Nat) (st : StoreRec), s.Inv → (s.core c).stores.find? (·.sid == sid) = some st → st.seq = 0 →
     ∀ a, (((s.publish c sid m).homeByte a).val =
       if st.w.loc ≤ a ∧ a < st.w.loc + st.w.bytes.length then ((st.w.bytes[a - st.w.loc]?).map (·.val)).getD 0
       else (s.homeByte a).val))
  ∧ (∀ (s : State) (core core' g g' loc : Nat) (x y : Int) (rels rels' : List Nat), s.Inv →
       anyPoison (s.homeBytes loc 16) = false →
       mVal (((s.accAdd core g loc x rels).accAdd core' g' loc y rels').homeBytes loc 16)
         = wrap ((mVal (s.homeBytes loc 16) : Nat) + (x + y)) 128
       ∧ ∀ a, (a < loc ∨ loc + 16 ≤ a) → (((s.accAdd core g loc x rels).homeByte a).val) = (s.homeByte a).val)

/-- R172, R187 to R189: PREF, and EVICT outside a region, change no value: they complete, and beside that only the TLB, the counters and
the free values may change (DESIGN CHOICE, log entry 17). FENCE makes its release of every store that its scope and mask ask for. That of
`.sc` stands in the order S, and has completed with every release of the core before it goes on (DEDUCED, log entry 12). With `.acq` the
group makes its acquire (R169). -/
def Obligations.PlacementAndFences : Prop :=
  let plain (s u : State) : Prop := u = { s with tlb := u.tlb, counters := u.counters, free := u.free }
  (∀ (f : PrefOp) (s : State), ∃ u, plain s u ∧ exec (.pref f) s = .next (u.went (ilen f.ext) s.th.regs))
  ∧ (∀ (f : EvictOp) (s : State), s.Outside → ∃ u, plain s u ∧
      exec (.evict f) s = .next (u.went (match f with | .line _ ext .. => ilen ext | .l1all => 16) s.th.regs))
  ∧ ∀ (f : FenceOp) (s : State), s.th.act Guard.always ≠ 0 →
      let s' := s.flush s.cur
      let c := s.grp.core
      (∀ st ∈ (s'.core c).stores, s'.unreach st.w.loc = false) →
      ∃ t, exec (.fence f) s = .next t ∧ t.th = { s.th with pc := s.th.pc + 16 }
        ∧ ((f.order = .rel ∨ f.order = .ar) → ∃ m r, t.grp.known.head? = some m ∧ t.rels.find? m = some r
            ∧ r.core = c ∧ r.scope = scopeRank f.scope ∧ r.mask = f.mask ∧ r.known = s.grp.known ∧ s.rels.find? m = none
            ∧ r.todo = (mustPublish (s'.core c) (scopeRank f.scope) f.mask).map (·.sid))
        ∧ (f.order = .sc → (t.core c).rels = [] ∧ ∃ m r, t.grp.known.head? = some m ∧ t.rels.find? m = some r
            ∧ r.core = c ∧ r.scope = scopeRank f.scope ∧ r.mask = f.mask ∧ r.known = s.grp.known ∧ s.rels.find? m = none
            ∧ r.todo = [] ∧ r.done = true ∧ r.sc = true)
        ∧ (f.order = .acq → s'.Acquired t s.cur (scopeRank f.scope) f.mask)
        ∧ ((f.order = .acq ∨ f.order = .relaxed) → ∀ a, t.homeByte a = s.homeByte a)

/-! ### Atomics -/

/-- R203 to R205: an atomic whose lanes pass their checks performs them one after another in ascending lane order at their homes, the
first with the instruction itself, after its release and before its acquire, and writes the old values, which R57 fills in a
scalar; RED and REDS write no register. An ordered atomic's release has completed. Between two lanes another agent may come (DEDUCED, log entry 12); here none
does. -/
def Obligations.AtomicsComplete : Prop :=
  ∀ (f : AtomOp) (s s1 s3 s5 : State) (ts : List (Nat × Target)) (os : List (Nat × Option Nat)),
    let act := s.th.act f.guard
    let n := f.ty.width / 8
    let s' := s.flush s.cur
    let rank := scopeRank f.scope
    let released : Bool := f.order == .rel || f.order == .ar || f.order == .sc
    let newAt := if f.su || n < 8 then f.d.toNat + 1 else f.d.toNat + 2
    act ≠ 0 → s.Outside →
    let does (i : Instr) (sp : MSpace) (cas red : Bool) : Prop :=
      s'.Reaches sp n .store (s.env.ea f.a f.vb (sp != .own) f.addr) (accessLanes act f.su) ts s1 →
      (∀ x ∈ ts, s1.atomTarget f cas (.ok x.2) = .ok x.2) →
      (ts.foldl (fun s x => s.joinBelow s.grp.block x.2.va x.2.loc n) s1).orderRelease f.order rank f.mask = (none, s3) →
      (s3.homesReady f.order).atomLanes f n cas (atomData s.th.regs f.d.toNat n f.su)
        (atomData s.th.regs newAt n f.su) (if released then s3.grp.known.take 1 else []) ts = (os, s5) →
      (∀ o ∈ os, o.2.isSome = true) →
      ∃ (r : Regs) (t0 t : State), exec i s = .next t0 ∧ (List.range (ts.length - 1)).foldl (fun (u : State) _ => u.laneMove s.cur) t0 = t
        ∧ t.th = { s.th with pc := s.th.pc + 16, regs := r } ∧ t.mem = s5.mem
        ∧ (if red then r = s.th.regs
           else WroteLanes s.th.regs r f.su f.d.toNat (if n = 8 then 64 else 32) act (os.map fun o =>
             (o.1, if f.su then fill f.ty (o.2.getD 0) else o.2.getD 0)))
    does (.atom f) .glob false false ∧ does (.atoms f) .own false false ∧ does (.atomp f) .peer false false
    ∧ does (.acas f) .glob true false ∧ does (.acass f) (if f.ps then .peer else .own) true false
    ∧ does (.red f) .glob false true ∧ does (.reds f) (if f.ps then .peer else .own) false true

/-- R204, R205: one lane of an atomic reads its home and writes the operation's value there, or the new value where a compare
succeeds; it changes no other byte of memory. The values of the operations are those of R204: of the integers, of the bitwise operations and
exchanges of `.b32` and `.b64`, and of the floating-point ones, which round under RN, or choose an operand in the order of R90. -/
def Obligations.AtomicAtHome : Prop :=
  (∀ (s : State) (f : AtomOp) (x : Target) (n : Nat) (cas : Bool) (data new : Nat) (rels : List Nat), s.Inv →
     anyPoison (s.homeBytes x.loc n) = false →
     let old := mVal (s.homeBytes x.loc n)
     let v := if cas then new else aopValue f.aop f.ty old data
     let p := s.atomLane f x n cas data new rels
     p.1 = some old
     ∧ ∀ a, (p.2.homeByte a).val =
         if x.loc ≤ a ∧ a < x.loc + n ∧ (cas = true → old = data) then BitVec.ofNat 8 (v / 256 ^ (a - x.loc))
         else (s.homeByte a).val)
  ∧ (∀ (t : Ty) (o x : Nat), o < 2 ^ t.width → x < 2 ^ t.width →
       let v (op : AOp) : Nat := aopValue op t o x
       ((t = .i32 ∨ t = .n32 ∨ t = .i64 ∨ t = .n64) →
         v .add = (o + x) % 2 ^ t.width
         ∧ tyVal t (v .min) = min (tyVal t o) (tyVal t x) ∧ tyVal t (v .max) = max (tyVal t o) (tyVal t x)
         ∧ v .inc = (if o < x then o + 1 else 0) ∧ v .dec = (if 0 < o ∧ o ≤ x then o - 1 else x)
         ∧ ∀ op, v op < 2 ^ t.width)
       ∧ ((t = .b32 ∨ t = .b64 ∨ t = .i32 ∨ t = .n32 ∨ t = .i64 ∨ t = .n64) →
         v .and = o &&& x ∧ v .or = o ||| x ∧ v .xor = o ^^^ x ∧ v .exch = x
         ∧ v .and < 2 ^ t.width ∧ v .or < 2 ^ t.width ∧ v .xor < 2 ^ t.width ∧ v .exch < 2 ^ t.width)
       ∧ (t = .f32 →
         v .add = fmtF32.rnd .rn false ((fmtF32.fv o).add .rn (fmtF32.fv x))
         ∧ (fmtF32.isNan o = false → fmtF32.isNan x = false →
             (v .min = o ∨ v .min = x) ∧ fmtF32.key (v .min) = min (fmtF32.key o) (fmtF32.key x)
             ∧ (v .max = o ∨ v .max = x) ∧ fmtF32.key (v .max) = max (fmtF32.key o) (fmtF32.key x))
         ∧ (fmtF32.isNan o = true → fmtF32.isNan x = false → v .min = x ∧ v .max = x)
         ∧ (fmtF32.isNan o = false → fmtF32.isNan x = true → v .min = o ∧ v .max = o)
         ∧ (fmtF32.isNan o = true → fmtF32.isNan x = true → v .min = 0x7FC00000 ∧ v .max = 0x7FC00000))
       ∧ ((t = .f16x2 ∨ t = .bf16x2) →
         let k := tyFmt t
         let sum (a b : Nat) : Nat := k.rnd .rn false ((k.fv a).add .rn (k.fv b))
         v .add = sum (o / 65536) (x / 65536) * 65536 + sum (o % 65536) (x % 65536)))

/-! ### Barriers and waits -/

/-- R192 to R199: BARV and BARS arrive for a group that is a member and has not arrived; BARV tells the phase and BARS waits
for it. BARW waits unless its phase has completed, and BARQ tells whether it has and never waits; where it has, each makes its
acquire, knowing the releases of the phases (R169). An arrival of a group that is no member, or has arrived already, takes
BARRIER_OVERRUN; that `faultva` is 0 is the model's choice (DESIGN CHOICE, log entry 53), and so is the pc of a group that a debugger halts
(DEDUCED, log entry 30). -/
def Obligations.BarrierInstructions : Prop :=
  (∀ (f : BarOp) (s : State), s.th.act Guard.always ≠ 0 → s.Outside →
     let s' := s.flush s.cur
     let k := s.barrierOf f
     let b := s.barrier k
     let x : Word := (s.th.regs.scal f.a.toNat).setWidth 32
     let done : Prop := 1 ≤ (b.phase - x).toNat ∧ (b.phase - x).toNat < 2 ^ 31
     let next (t : State) (r : Regs) : Prop := t.th = { s.th with pc := s.th.pc + 16, regs := r }
     let observed (t : State) : Prop := (∀ m ∈ b.known, m ∈ t.grp.known) ∧ s'.Acquired t s.cur (barrierRank f.scope) f.mask
     ((s.cur ∈ b.members → s.cur ∉ b.arrived → (∀ st ∈ (s'.core s.grp.core).stores, s'.unreach st.w.loc = false) →
         (∃ t r, exec (.barv f) s = .next t ∧ next t r ∧ WroteScal s.th.regs r f.d.toNat (b.phase.setWidth 64)
           ∧ (t.barrier k).arrived = b.arrived ++ [s.cur] ∧ (t.barrier k).phase = b.phase ∧ t.grp.wait = s.grp.wait)
         ∧ (∃ t, exec (.bars f) s = .next t ∧ next t s.th.regs ∧ (t.barrier k).arrived = b.arrived ++ [s.cur]
           ∧ t.grp.wait = .barrier k b.phase (barrierRank f.scope) f.mask)))
     ∧ (∃ t, exec (.barw f) s = .next t ∧ next t s.th.regs ∧ t.barrier k = b
         ∧ (done → t.grp.wait = s.grp.wait ∧ observed t) ∧ (¬done → t.grp.wait = .barrier k x (barrierRank f.scope) f.mask))
     ∧ (∃ t r, exec (.barq f) s = .next t ∧ next t r ∧ t.barrier k = b ∧ t.grp.wait = s.grp.wait
         ∧ (done → WroteScal s.th.regs r f.d.toNat 1 ∧ observed t)
         ∧ (¬done → WroteScal s.th.regs r f.d.toNat 0 ∧ t.grp.known = s.grp.known ∧ t.cores = s'.cores)))
  ∧ (∀ (f : BarOp) (s : State), s.th.act Guard.always ≠ 0 → s.Outside → s.grp.hnd = none →
       (s.cur ∉ (s.barrier (s.barrierOf f)).members ∨ s.cur ∈ (s.barrier (s.barrierOf f)).arrived) →
       Faults (.barv f) s (s.flush s.cur) 16 0x0C 0 0 ∧ Faults (.bars f) s (s.flush s.cur) 16 0x0C 0 0)

/-- R192, R195, R196: a full phase of a barrier completes: its number rises by one, arrivals are cleared, the next phase
expects the members that remain, and every group that waits for a completed phase is ready. Where no member remains the barrier's
state is freed (when it is, is DEDUCED, log entry 65). -/
def Obligations.PhaseCompletes : Prop :=
  ∀ (k : Nat) (s : State), s.phaseFull k = true →
    let b := s.barrier k
    ∃ t, exec (.barrierPhaseComplete k) s = .next t
      ∧ (b.members ≠ [] → (t.barrier k).phase = b.phase + 1 ∧ (t.barrier k).arrived = []
          ∧ (t.barrier k).members = b.members ∧ (t.barrier k).expected = b.members.length)
      ∧ (b.members = [] → Tab.rising s.barriers = true → t.barriers.find? k = none)
      ∧ (∀ g x p rank mask, s.groups.find? g = some x → x.retired = false → x.wait = .barrier k p rank mask →
          phaseDone (b.phase + 1) p = true → (t.group g).wait = .none ∧ (t.group g).th = x.th)
      ∧ (∀ g, (∀ p rank mask, (s.group g).wait ≠ .barrier k p rank mask) → (t.group g).wait = (s.group g).wait)

/-- R201, R202: WAITC goes on once its limits hold, and joins the operations that it passes; until then the group waits, and
WAITC_RESUME makes it ready when they hold. A limit of n holds for a counter when, of the group's operations that it has counted, all but
the n latest are finished, and those are the operations passed. The counters of loads and stores never make a group wait, and a store in
a region's buffer counts in none (DEDUCED, log entry 66). -/
def Obligations.WaitcWaits : Prop :=
  ∀ (f : WaitcOp) (s : State), s.th.act Guard.always ≠ 0 →
    let s' := s.flush s.cur
    let counted (u : State) (g : Nat) (tile : Bool) : List (Nat × EngOp) := u.ops.filter fun x => x.2.grp == g && x.2.tile == tile
    let passed (u : State) (g : Nat) (x : Nat × EngOp) : Prop := ∃ tile i, (counted u g tile)[i]? = some x
      ∧ i + (if tile then f.ntl.toNat else f.ncp.toNat) < (counted u g tile).length
    let met (u : State) (g : Nat) : Prop := ∀ x, passed u g x → x.2.st = .finished
    (¬met s' s.cur → exec (.waitc f) s = .next (s'.waitHere (.waitc f)))
    ∧ (met s' s.cur → s.grp.region.depth = 0 → (∀ o, (s'.op o).fault = none) →
        ∃ t, exec (.waitc f) s = .next t ∧ t.th = { s.th with pc := s.th.pc + 16 }
          ∧ ∀ x, passed s' s.cur x → (s'.op x.1).joined = false → (t.op x.1).grp = s.cur →
              (t.op x.1).joined = true ∧ (t.op x.1).wrote = [])
    ∧ ∀ g, (s.group g).wait = .waitc f → (¬met s g → exec (.waitcResume g) s = .next s) ∧ (met s g →
        ∃ t, exec (.waitcResume g) s = .next t ∧ (t.group g).wait = .none ∧ (t.group g).th = (s.group g).th
          ∧ ∀ h, h ≠ g → t.group h = s.group h)

/-- R144, R212, R237, R238, R240: each event that ends a wait makes the group ready when what it waits for has come about, and
changes nothing else; otherwise it changes nothing. The end of a YIELDC also joins the channel's operations, and completes it (R349). -/
def Obligations.WaitsEnd : Prop :=
  ∀ (s : State) (g : Nat),
    let x := s.group g
    let ends (i : Instr) (ok : Prop) : Prop :=
      (x.retired = false → ok → ∃ t, exec i s = .next t ∧ t.group g = { x with wait := .none }
        ∧ (∀ h, h ≠ g → t.group h = s.group h) ∧ t.mem = s.mem ∧ t.ops = s.ops)
      ∧ (¬ok → exec i s = .next s)
    ends (.yieldResume g) (x.wait = .yield)
    ∧ (∀ c pc, x.wait = .yieldc c pc → x.retired = false →
        ((s.chan x.block c).queue ≠ [] → exec (.yieldcResume g) s = .next s)
        ∧ ∀ s2, (s.chan x.block c).queue = [] → s.joinAll g (s.chanOps x.block c) = (none, s2) →
            exec (.yieldcResume g) s = .next ((s2.modGroup g fun y => { y with wait := .none }).modGroup g Group.completed))
    ∧ ends (.chcfgResume g) (∃ c, x.wait = .chcfg c ∧ (s.chan x.block c).queue = [])
    ∧ ends (.endEngineJoin g) (x.wait = .endJoin ∧ ∀ o ∈ s.opsOf g, o.2.st = .finished)
    ∧ ends (.watermarkWaitEnd g) (∃ on : List (Nat × Nat), x.wait = .watermark on
        ∧ ∀ p ∈ on, (s.chan x.block p.1).queue = [] ∨ p.2 < (s.chan x.block p.1).wm)

/-! ### Copies -/

/-- R234, R236, R241: CPY, FSEND and SPRED, and R220, R221, R235: CPYX, CPYA and CPYD, whose checks pass queue one operation
on their channel; one with nothing to move has finished at once. R211, R214: the first queued operation of a channel starts
with the elements that it has to move; one that has moved them all, and has no packet or pair to wait for, finishes and leaves
its channel. -/
def Obligations.CopiesIssueAndRun : Prop :=
  (∀ (s : State), s.th.act Guard.always ≠ 0 → s.Outside →
     let s' := s.flush s.cur
     let r := s.th.regs
     let goes (i : Instr) (n : Nat) (c : BitVec 3) (kind : OpKind) (empty : Bool) : Prop :=
       ∃ t, exec i s = .next t ∧ Issued s' t n (some c.toNat) kind (if empty then .finished else .queued) false
     (∀ f : CpyOp,
       let len := s.env.uval f.len 32
       let src := r.scal f.a.toNat
       let dst := r.scal f.d.toNat
       let kind : OpKind := .cpy f.dsp f.ssp dst src len
       s'.chanFull f.ch.toNat = false → src.toNat % 4 = 0 → dst.toNat % 4 = 0 → len % 4 = 0 → s'.issueBounds kind = none →
       goes (.cpy f) (ilen f.ext) f.ch kind (len == 0))
     ∧ (∀ f : FabOp,
       let len := s.env.uval f.len 32
       let src := r.scal f.a.toNat
       let fab := r.scal f.d.toNat
       s'.chanFull f.ch.toNat = false →
       (src.toNat % 4 = 0 → len % 4 = 0 → s'.issueBounds (.fsend f.inScr fab src len) = none →
         goes (.fsend f) (ilen f.ext) f.ch (.fsend f.inScr fab src len) (len == 0))
       ∧ (src.toNat % 8 = 0 → fabOff fab.toNat = 0 → s'.issueBounds (.spred f.inScr fab src len) = none →
         goes (.spred f) (ilen f.ext) f.ch (.spred f.inScr fab src len) (len == 0)))
     ∧ ∀ (f : CpyRecOp) (ws : List DWord) (s2 : State),
       let at_ := (r.scal f.a.toNat).toNat
       let record (i : Instr) (k : Nat) : Prop := s2.recFault k at_ ws = none →
         ∃ t, exec i s = .next t ∧ Issued s2 t (ilen f.ext) (some f.ch.toNat) (.copyRec k f.clr ws) .queued false
       s'.chanFull f.ch.toNat = false → at_ % 64 = 0 → s'.recWords f.inScr at_ 16 0 [] = (.words ws, s2) →
       record (.cpyx f) 0 ∧ record (.cpya f) 1 ∧ record (.cpyd f) 2)
  ∧ ((∀ (s : State) (b c o : Nat), (s.block b).st ≠ .saved →
         (s.chan b c).queue.find? (fun o => (s.op o).st == .queued) = some o →
         ∃ t, exec (.copyOperationStart b c) s = .next t ∧ (t.op o).st = .started ∧ (t.op o).kind = (s.op o).kind
           ∧ (t.op o).wexp = (s.chan b c).wexp ∧ (∀ p, p ≠ o → t.op p = s.op p) ∧ t.mem = s.mem
           ∧ ∀ dsp ssp dst src n, (s.op o).kind = .cpy dsp ssp dst src n → dst.toNat + n ≤ 2 ^ 64 → src.toNat + n ≤ 2 ^ 64 →
               (t.op o).todo.map (fun x => (x.src, x.dst, x.stage)) = ((List.range (n / 4)).map fun i =>
                 (src.toNat + 4 * i, dst.toNat + 4 * i, 0))
               ∧ (dsp ≠ .glob → ∀ x ∈ (t.op o).todo, x.silent = false))
     ∧ ∀ (s : State) (o : Nat), (s.op o).st = .started → (s.op o).paging = none → (s.op o).todo = [] → (s.op o).sent = [] →
         (s.op o).pairs = [] → (s.op o).fault = none →
         ∃ t, exec (.copyOperationComplete o) s = .next t ∧ (t.op o).st = .finished
           ∧ (∀ c, (s.op o).chan = some c → o ∉ (t.chan (s.op o).block c).queue) ∧ t.mem = s.mem)

/-- R210, R238 to R240: CHCFG configures an idle channel afresh, WMARK tells its status, and YIELDC goes to its continuation
at once when the channel is idle, having joined its operations; CHCFG waits, and YIELDC waits at its continuation, while it is
not. -/
def Obligations.ChannelInstructions : Prop :=
  ∀ (s : State), s.th.act Guard.always ≠ 0 → s.Outside →
    let s' := s.flush s.cur
    let b := s.grp.block
    (∀ (f : ChcfgOp) (s2 : State),
      let c := f.ch.toNat
      let base := (s.th.regs.scal f.a.toNat).toNat
      let len := (s.th.regs.scal f.b.toNat).toNat % 2 ^ 32
      ((s'.chan b c).queue ≠ [] → exec (.chcfg f) s = .next (s'.waitHere (.chcfg c)))
      ∧ ((s'.chan b c).queue = [] → s'.joinAll s.cur (s'.chanOps b c) = (none, s2) → s2.chcfgFault f.sp base len = none →
          ∃ t, exec (.chcfg f) s = .next t ∧ t.th = { s.th with pc := s.th.pc + ilen f.ext }
            ∧ t.chan b c = { space := f.sp, base := base, len := len, wexp := f.w.toInt }
            ∧ ∀ d, d ≠ c → t.chan b d = s2.chan b d))
    ∧ (∀ (f : WmarkOp), ∃ t r, exec (.wmark f) s = .next t ∧ t.th = { s.th with pc := s.th.pc + ilen f.ext, regs := r }
        ∧ WroteScal s.th.regs r f.d.toNat (s'.chan b f.ch.toNat).status
        ∧ (f.clr = true → (t.chan b f.ch.toNat).clipf = false ∧ (t.chan b f.ch.toNat).nanf = false)
        ∧ (t.chan b f.ch.toNat).queue = (s'.chan b f.ch.toNat).queue)
    ∧ ∀ (f : YieldcOp) (s2 : State),
      ((s'.chan b f.ch.toNat).queue ≠ [] → exec (.yieldc f) s
          = .next ((s'.setTh { s.th with pc := 8 * ((s.th.pc / 8 : Nat) + 2 + f.target.toInt).toNat }).waitHere
              (.yieldc f.ch.toNat s.th.pc)))
      ∧ ((s'.chan b f.ch.toNat).queue = [] → s'.joinAll s.cur (s'.chanOps b f.ch.toNat) = (none, s2) →
          ∃ t, exec (.yieldc f) s = .next t
            ∧ t.th = { s.th with pc := 8 * ((s.th.pc / 8 : Nat) + 2 + f.target.toInt).toNat })


/-! ### Matrix array -/

/-- R244, R252, R257 to R263: MMA, TZERO, TLOAD and TDRAIN whose checks pass queue one command on their core. QPOP claims the
next elements of its queue, and takes them once they are written; QSTORE and QSEND claim theirs and start. QSTAT tells, and
may clear, a tile's flag. -/
def Obligations.MatrixInstructions : Prop :=
  ∀ (s : State), s.th.act Guard.always ≠ 0 →
    let s' := s.flush s.cur
    let b := s.grp.block
    let r := s.th.regs
    let queues (u : State) (i : Instr) (n : Nat) (kind : OpKind) (more : State → Prop) : Prop :=
      ∃ t o, exec i s = .next t ∧ IssuedAs o u t n none kind .queued true ∧ more t
        ∧ (t.core u.grp.core).arrayQ = (u.core u.grp.core).arrayQ ++ [o]
    (∀ f : QstatOp, ∃ t r', exec (.qstat f) s = .next t ∧ t.th = { s.th with pc := s.th.pc + ilen f.ext, regs := r' }
        ∧ WroteScal r r' f.d.toNat (s'.qstatWord b f.q.toNat f.tile.toNat) ∧ t.mem = s'.mem
        ∧ (f.clr = true → f.tile.toNat < (s.launch (s.block b).launch).kernel.tiles → (t.tile b f.tile.toNat).flag = false)
        ∧ ∀ k, k ≠ f.tile.toNat → t.tile b k = s.tile b k)
    ∧ (s.Outside → s'.arrayFull = false →
      (∀ (f : MmaOp) (ws : List DWord) (s2 : State),
        let fb := (r.scal f.c.toNat).toNat
        fb % 64 = 0 → fb + 64 ≤ s'.scratchOf b → s'.recWords true fb 8 0 [] = (.words ws, s2) →
        mmaFault (Shape.of (r.shape f.a)) (Shape.of (r.shape f.b)) ws (s'.scratchOf b) = none →
        queues s2 (.mma f) 16 (.mma f.d.toNat (r.shape f.a) (r.shape f.b) ws f.acc) fun _ => True)
      ∧ (∀ f : TileOp, queues s' (.tzero f) (ilen f.ext) (.tzero f.d.toNat) (fun _ => True)
        ∧ (tloadFault (Shape.of (r.shape f.a)) (s'.scratchOf b) = none →
          queues s' (.tload f) (ilen f.ext) (.tload f.d.toNat (r.shape f.a)) fun _ => True))
      ∧ ∀ f : TdrainOp,
        let q := s'.rqueue b f.q.toNat
        let n := (f.nrows1.toNat + 1) * (f.ncols1.toNat + 1)
        let bytes := n * (f.ty.width / 8)
        q.ib - q.cb + bytes ≤ 65536 →
        queues s' (.tdrain f) 16 (.tdrain f.q.toNat q.ie bytes f) fun t =>
          (t.rqueue b f.q.toNat).ie = q.ie + n ∧ (t.rqueue b f.q.toNat).ib = q.ib + bytes)
    ∧ (s.Outside → ∀ f : QpopOp, s.th.act f.guard ≠ 0 →
        let q := s'.rqueue b f.q.toNat
        let w := s.grp.width
        let act := s.th.act f.guard
        let el (l : Nat) : QElem := (q.elems.find? (q.ce + l)).getD ⟨4, 0, false, true⟩
        w ≤ q.ie - q.ce →
        (q.written q.ce w = true → (∀ l, l < 32 → act.getLsbD l = true → (el l).poison = false) →
          ∃ t r', exec (.qpop f) s = .next t ∧ t.th = { s.th with pc := s.th.pc + ilen f.ext, regs := r' }
            ∧ WroteVec r r' f.d.toNat 32 act (fun l => (el l).val.toNat) ∧ t.mem = s'.mem
            ∧ (t.rqueue b f.q.toNat).ce = q.ce + w
            ∧ ∀ i, (t.rqueue b f.q.toNat).elems.find? i = if q.ce ≤ i ∧ i < q.ce + w then none else q.elems.find? i)
        ∧ (q.written q.ce w = false → exec (.qpop f) s
            = .next ((s'.modQueue b f.q.toNat fun q => q.claim w).waitHere (.qpop f.q.toNat q.ce act f.d (ilen f.ext)))))
    ∧ (s.Outside → s'.counterFull true = false →
      let pops (i : Instr) (len q n : Nat) (kind : OpKind) : Prop :=
        ∃ t, exec i s = .next t ∧ Issued s' t len none kind (if n = 0 then .finished else .started) true
          ∧ (t.rqueue b q).ce = (s'.rqueue b q).ce + n
      (∀ f : QstoreOp,
        let q := s'.rqueue b f.q.toNat
        let n := s.env.uval f.cnt 32
        let at_ := r.scal f.a.toNat
        n ≤ q.ie - q.ce → at_.toNat % 4 = 0 →
        (if f.inScr then at_.toNat + q.bytesOf q.ce n ≤ s'.scratchOf b else at_.toNat < 2 ^ 56) →
        pops (.qstore f) (ilen f.ext) f.q.toNat n (.qstore f.q.toNat q.ce n f.inScr at_))
      ∧ ∀ f : QsendOp,
        let q := s'.rqueue b f.q.toNat
        let n := s.env.uval f.cnt 32
        n ≤ q.ie - q.ce → pops (.qsend f) (ilen f.ext) f.q.toNat n (.qsend f.q.toNat q.ce n (r.scal f.d.toNat)))

/-- R247, R248, R253 to R256, R259 to R261, R264: a ready command starts and leaves its core's queue, and a started TDRAIN pushes its
elements in order. A completing TZERO leaves a tile of +0. A completing TDRAIN has pushed each element that it had not pushed before, rounded, or the
canonical NaN from a row with its NaN bit, noted such a row in the tile's flag, and with `.clr` left the drained rows at +0. A TLOAD or MMA gives its tile, in the rows
without a NaN bit (R256), the values of the lines that it has read: an MMA adds group sums in ascending k, each an exact sum, in whatever
order, of the products of its elements, rounded to FP32, and rounds each addition. A waiting QPOP receives its elements once they are
written. Each element takes the lines as its own use finds them (`useOf`): a byte may have been read more than once (R265; when it is, is
DEDUCED, log entry 79). That a poison bit is never cleared by an MMA is DEDUCED too (log entry 87). -/
def Obligations.ArrayCommandsRun : Prop :=
  let drained (x : Tile) (f : TdrainOp) (i j : Nat) : Word := BitVec.ofNat 32
    (if x.nan.getLsbD i then (tyFmt f.ty).qnan
     else if f.ty = .f32 then x.elem i j else (tyFmt f.ty).rnd f.rm f.sat (fmtF32.fv (x.elem i j)))
  (∀ (s : State) (cl pos o : Nat), s.nextArray cl = some (pos, o) →
    let c := 4 * cl + pos
    ∃ t, exec (.arrayCommandStart cl) s = .next t ∧ (t.op o).st = .started ∧ (t.op o).kind = (s.op o).kind
      ∧ (t.core c).arrayQ = (s.core c).arrayQ.drop 1 ∧ (t.cluster cl).last = pos ∧ t.mem = s.mem
      ∧ (∀ p, p ≠ o → t.op p = s.op p) ∧ ∀ k, k ≠ c → t.core k = s.core k)
  ∧ (∀ (s : State) (cl o : Nat), s.arrayRunning cl = [o] →
    let b := (s.op o).block
    let done (kind : OpKind) (holds : State → Prop) : Prop := (s.op o).kind = kind →
      ∃ t, exec (.arrayCommandComplete cl) s = .next t ∧ (t.op o).st = .finished ∧ holds t
    (∀ k, done (.tzero k) fun t =>
      (∀ i j, (t.tile b k).elem i j = 0) ∧ (t.tile b k).nan = 0 ∧ (t.tile b k).poison = 0
        ∧ ∀ j, j ≠ k → t.tile b j = s.tile b j)
    ∧ (∀ q first bytes f, done (.tdrain q first bytes f) fun t =>
      let x := s.tile b f.d.toNat
      let z := t.tile b f.d.toNat
      let drains (i : Nat) : Prop := f.row0.toNat ≤ i ∧ i ≤ f.row0.toNat + f.nrows1.toNat
      (∀ k e, k < (f.nrows1.toNat + 1) * (f.ncols1.toNat + 1) → (s.rqueue b q).elems.find? (first + k) = some e →
        let i := f.row0.toNat + k / (f.ncols1.toNat + 1)
        (t.rqueue b q).elems.find? (first + k) = some (if e.written then e else { e with
          val := drained x f i (k % (f.ncols1.toNat + 1)), poison := x.poison.getLsbD i, written := true }))
      ∧ (z.flag = true ↔ x.flag = true ∨ ∃ i, i < 128 ∧ drains i ∧ x.nan.getLsbD i = true)
      ∧ (f.clr = false → z.vals = x.vals ∧ z.nan = x.nan ∧ z.poison = x.poison)
      ∧ (f.clr = true → ∀ i j, i < 128 → j < 128 →
          (drains i → z.elem i j = 0 ∧ z.nan.getLsbD i = false ∧ z.poison.getLsbD i = false)
          ∧ (¬drains i → z.elem i j = x.elem i j ∧ z.nan.getLsbD i = x.nan.getLsbD i
              ∧ z.poison.getLsbD i = x.poison.getLsbD i)))
    ∧ (∀ k a ls s2, s.readLines o (Shape.of a) ⟨.f16, false, 0⟩ .own (2 * (Shape.of a).cols)
          (List.range (Shape.of a).rows) = (.ok ls, s2) → (Shape.of a).cols ≤ 128 → done (.tload k a) fun t =>
        (∀ i j l, ls[i]? = some l → j < (Shape.of a).cols → (t.tile b k).nan.getLsbD i = false → (t.tile b k).elem i j
            = ((l.elems[2 * j]?).getD 0 + 65536 * (l.elems[2 * j + 1]?).getD 0) % 2 ^ 32)
        ∧ ∀ j, j ≠ k → t.tile b j = s2.tile b j)
    ∧ ∀ k a c ws acc fa fb la lb s2 s3,
      formatEntry ws (Shape.of a).fmt false = some fa → formatEntry ws (Shape.of c).fmt true = some fb →
      s.readUses o (Shape.of a) fa .own (Shape.of a).cols (Shape.of c).cols (List.range (Shape.of a).rows) = (.ok la, s2) →
      s2.readUses o (Shape.of c) fb .bstore (Shape.of a).cols (Shape.of a).rows (List.range (Shape.of c).cols)
        = (.ok lb, s3) → lb.length ≤ 128 →
      let x := s3.tile b k
      let len := (pairLength fa.fmt fb.fmt).getD 32
      let round (v : FV) : Nat := fmtF32.rnd .rn false v
      let flagA (l : LineData) : Prop := l.flagged fa.fmt (Shape.of a).cols = true
      let flagB : Prop := ∃ ms ∈ lb, ∃ m ∈ ms, m.flagged fb.fmt (Shape.of a).cols = true
      let bad (ls : List LineData) : Prop := ∃ l ∈ ls, l.poison ≠ []
      done (.mma k a c ws acc) fun t =>
        let z := t.tile b k
        (∀ i, i < 128 →
          (z.nan.getLsbD i = true ↔ (x.nan.getLsbD i = true ∧ ¬(acc = false ∧ lb.length = 128 ∧ i < la.length))
            ∨ ∃ ls, la[i]? = some ls ∧ ((∃ l ∈ ls, flagA l) ∨ flagB))
          ∧ (z.poison.getLsbD i = true ↔ x.poison.getLsbD i = true
            ∨ ∃ ls, la[i]? = some ls ∧ (bad ls ∨ ∃ ms ∈ lb, bad ms)))
        ∧ (∀ i j, i < 128 → j < 128 → z.nan.getLsbD i = false →
          (la.length ≤ i ∨ lb.length ≤ j → z.elem i j = x.elem i j)
          ∧ ∀ ls ms, la[i]? = some ls → lb[j]? = some ms →
            let l := useOf ls j
            let m := useOf ms i
            let sum (g : Nat) : Nat := round (exactSum ((List.range len).map fun r =>
              product (l.term fa.fmt (len * g + r)) (m.term fb.fmt (len * g + r))))
            ∀ seq : Nat → Option Nat, seq 0 = (if acc then some (x.elem i j) else none) →
              (∀ g, seq (g + 1) = some (match seq g with
                | none => sum g
                | some v => round ((fmtF32.fv v).add .rn (fmtF32.fv (sum g))))) →
              z.elem i j = ((seq ((Shape.of a).cols / len)).getD 0) % 2 ^ 32)
        ∧ ∀ j, j ≠ k → t.tile b j = s3.tile b j)
  ∧ (∀ ts us : List Term, ts.Perm us → exactSum ts = exactSum us)
  ∧ (∀ ts : List Term, ∃ neg m e, exactSum ts = .fin neg m e ∧ (∀ x ∈ ts, e ≤ x.e)
      ∧ signedInt neg m = (ts.map fun x => signedInt x.neg (x.m * 2 ^ (x.e - e).toNat)).sum
      ∧ (m = 0 → (neg = true ↔ ∀ x ∈ ts, x.neg = true ∧ x.m = 0)))
  ∧ (∀ x y : Term, product (some x) (some y) = ⟨x.neg != y.neg, x.m * y.m, x.e + y.e⟩)
  ∧ (∀ (l : LineData) (f : AFmt) (k : Nat),
    let c := (l.elems[k]?).getD 0
    let bits := if f = .bx8 then 6 else 2
    let offsets := (l.ofs[k / 32]?).getD 0
    (f.block = false → l.term f k = match f.fmt.fv c with | .fin s m e => some ⟨s, m, e⟩ | _ => none)
    ∧ (f.block = true → c < 2 ^ (bits + 2) → l.term f k = some
        ⟨c.testBit (bits + 1), c % 2 ^ bits, ((l.xs[k / 256]?).getD 0 : Int) - 127
          - (if c.testBit bits then offsets / 16 else offsets % 16 : Nat) - (if f = .bx8 then 5 else 1)⟩))
  ∧ (∀ (s : State) (o q first bytes k : Nat) (f : TdrainOp) (x : QElem), (s.op o).st = .started → (s.op o).kind = .tdrain q first bytes f →
    let b := (s.op o).block
    let el (s : State) (j : Nat) : Option QElem := (s.rqueue b q).elems.find? (first + j)
    k < (f.nrows1.toNat + 1) * (f.ncols1.toNat + 1) → el s k = some x → x.written = false →
    (∀ j y, j < k → el s j = some y → y.written = true) →
    let i := f.row0.toNat + k / (f.ncols1.toNat + 1)
    el (s.pushNext o) k = some { x with val := drained (s.tile b f.d.toNat) f i (k % (f.ncols1.toNat + 1)),
                                        poison := (s.tile b f.d.toNat).poison.getLsbD i, written := true }
      ∧ (∀ j, j ≠ k → el (s.pushNext o) j = el s j) ∧ (s.pushNext o).mem = s.mem ∧ (s.pushNext o).groups = s.groups)
  ∧ ∀ (s : State) (g q first n : Nat) (lanes : Mask) (d : Idx), (s.group g).wait = .qpop q first lanes d n →
      let b := (s.group g).block
      let x := s.rqueue b q
      let el (l : Nat) : QElem := (x.elems.find? (first + l)).getD ⟨4, 0, false, true⟩
      (x.written first (s.group g).width = false → exec (.qpopElementsReady g) s = .next s)
      ∧ (x.written first (s.group g).width = true → (∀ l, l < 32 → lanes.getLsbD l = true → (el l).poison = false) →
        ∃ t r', exec (.qpopElementsReady g) s = .next t ∧ (t.group g).wait = .none
          ∧ (t.group g).th = { (s.group g).th with pc := (s.group g).th.pc + n, regs := r' }
          ∧ WroteVec (s.group g).th.regs r' d.toNat 32 lanes (fun l => (el l).val.toNat)
          ∧ ∀ h, h ≠ g → t.group h = s.group h)

/-! ### Named lines -/

/-- R279, R282 to R296: each named-line instruction whose checks pass answers with the status and the values of the home.
NPUT adds an absent line with count 1, NSWAP installs a root with the next generation, and RECLAIM makes one decrement, of any
pending. The free lines that NSTAT `.pool` tells and NPUT takes from rest on the model's placement of frames (DEDUCED, log entry 21),
the pin of a bound window and the copy of the empty name on its reading (DEDUCED, log entry 68), and the count that NSTAT `.count` tells
of a line that a poisoned directory entry has made immortal on its choice (DESIGN CHOICE, log entry 88). -/
def Obligations.NamedInstructions : Prop :=
  (∀ (s : State), s.th.act Guard.always ≠ 0 → s.Outside →
    let s' := s.flush s.cur
    let b := s.grp.block
    let r := s.th.regs
    let act := s.th.act Guard.always
    let c := s.myCtx
    let goes (i : Instr) (n : Nat) (p : State → Regs → Prop) : Prop :=
      ∃ t r', exec i s = .next t ∧ t.th = { s.th with pc := s.th.pc + n, regs := r' } ∧ p t r'
    (∀ (f : NputOp) (hash : Bool) (dom loc : Nat) (bs : List MByte) (s3 : State),
      let off := (r.scal f.a.toNat).toNat
      let k := if f.node then 1 else 0
      let s2 := s'.joinBelow b off loc 256
      s'.lineAt off = .ok loc → s'.regionOf f.region = some dom → s'.blockers b off loc 256 none = [] →
      s2.engineRead s2.grp.core (s2.engineMust s2.cur ++ s2.belowSids b off loc 256) s2.grp.known loc 256 = (bs, s3) →
      anyPoison bs = false → (f.node = true → ∀ n ∈ childNames bs, nameValid n = true) →
      ∀ p s4, s3.putLine dom k hash bs = (.ok p, s4) →
        goes (if hash then .nhash f else .nput f) 16 fun t r' =>
          r' = ((r.setName f.d.toNat p.name).setScal (f.d.toNat + 2) (BitVec.ofNat 64 p.status)).setPred f.c.toNat act
            (if p.found then act else 0)
          ∧ t.domains = s4.domains ∧ t.contexts = s4.contexts ∧ t.mem = s4.mem)
    ∧ (∀ (f : NnameOp),
      let off := (r.scal f.d.toNat).toNat
      (∀ loc dom bs, s'.lineAt off = .ok loc → s'.regionOf f.region = some dom →
        s'.lineBytes dom (r.name f.a.toNat) = some bs →
        exec (.nget f) s = .next ((s'.enterStore s.grp.core s.cur ⟨loc, bs, BitVec.ofNat 64 off, false⟩ none).advance (ilen f.ext)))
      ∧ ∀ dom nm, s'.pinned f = .ok (dom, nm) →
        (goes (.npin f) (ilen f.ext) fun t r' =>
          if nameReal nm = true ∧ (s.ctx c).canPin dom nm = false then
            WroteScal r r' f.d.toNat 4 ∧ t.contexts = s'.contexts ∧ t.domains = s'.domains
          else WroteScal r r' f.d.toNat 0 ∧ (nameReal nm = true →
            (t.ctx c).pinsOn dom nm = (s.ctx c).pinsOn dom nm + 1
              ∧ (t.domain dom).find nm = ((s.domain dom).find nm).map Line.inc))
        ∧ ((nameReal nm = true → (s.ctx c).pinsOn dom nm ≠ 0) → goes (.nunpin f) (ilen f.ext) fun t r' =>
            WroteScal r r' f.d.toNat 0 ∧ ∀ l, nameReal nm = true → (s.domain dom).find nm = some l → l.immortal = false →
              (t.domain dom).find nm = if 1 < l.count then some { l with count := l.count - 1 } else none))
    ∧ (∀ (f : NrootOp) (pa dom : Nat) (ms : List Nat) (s2 s3 : State),
      let a := (r.scal f.a.toNat).toNat
      let bs := s3.homeBytes pa 32
      s'.slotAt a = (.ok (pa, dom), s2) → s2.blockers b a pa 32 none = [] →
      (s2.joinBelow b a pa 32).slotRelease f.order (scopeRank f.scope) f.mask = (none, ms, s3) → anyPoison bs = false →
      goes (.nroot f) (ilen f.ext) fun _ r' =>
        r' = r.setSlot f.d.toNat bs
          (if f.pin = true ∧ nameReal (slotName bs) = true ∧ (s3.ctx c).canPin dom (slotName bs) = false then 4 else 0))
    ∧ (∀ (f : NswapOp) (pa dom : Nat) (ms : List Nat) (s2 s3 : State),
      let a := (r.scal f.a.toNat).toNat
      let name := r.name f.b.toNat
      let m := (r.scal (f.b.toNat + 2)).toNat
      let bs := s3.homeBytes pa 32
      let ok : Bool := slotWord bs 3 % 2 ^ 32 == (r.scal (f.b.toNat + 3)).toNat % 2 ^ 32
      s.Inv → s'.slotAt a = (.ok (pa, dom), s2) → s2.rootNameOk dom name = true → metaOk m = true →
      s2.blockers b a pa 32 none = [] →
      (s2.joinBelow b a pa 32).slotRelease f.order (scopeRank f.scope) f.mask = (none, ms, s3) → anyPoison bs = false →
      goes (.nswap f) 16 fun t r' =>
        r' = (r.setSlot f.d.toNat bs (if ok then 0 else 5)).setPred f.c.toNat act (if ok then act else 0)
        ∧ (ok = false → t.mem = s3.mem)
        ∧ (ok = true → mVal (t.homeBytes pa 16) = name.toNat ∧ mVal (t.homeBytes (pa + 16) 8) = m
            ∧ mVal (t.homeBytes (pa + 24) 8) = (slotWord bs 3 % 2 ^ 32 + 1) % 2 ^ 32))
    ∧ (∀ (f : NbindOp) (pa dom view len : Nat) (s2 : State),
      let a := (r.scal f.a.toNat).toNat
      let base := (r.scal f.b.toNat).toNat
      let bs := s2.homeBytes pa 32
      a % 32 = 0 → base % 65536 = 0 → s'.slotAt a = (.ok (pa, dom), s2) → s2.windowAt c base = some (view, len) →
      (((s2.ctx c).view view).isSome = true → goes (.nbind f) (ilen f.ext) fun _ r' => WroteScal r r' f.d.toNat 6)
      ∧ ((s2.ctx c).view view = none → s2.blockers b a pa 32 none = [] → anyPoison bs = false →
          (nameReal (slotName bs) = true → (s2.ctx c).canPin dom (slotName bs) = true) → metaLen (slotWord bs 2) ≤ len →
          goes (.nbind f) (ilen f.ext) fun t r' => WroteScal r r' f.d.toNat 0
            ∧ (t.ctx c).view view = some ⟨view, dom, slotName bs, metaDepth (slotWord bs 2), metaLen (slotWord bs 2)⟩))
    ∧ (∀ (f : NbindOp) (view len : Nat),
      let base := (r.scal f.a.toNat).toNat
      base % 65536 = 0 → s'.windowAt c base = some (view, len) →
      goes (.nunbind f) (ilen f.ext) fun t r' => WroteScal r r' f.d.toNat 0 ∧ (t.ctx c).view view = none)
    ∧ (∀ (f : NcopyOp) (dom : Nat) (s3 : State),
      let dst := r.scal f.d.toNat
      let name := r.name f.a.toNat
      let m := (r.scal (f.a.toNat + 2)).toNat
      let kind (d : Nat) : OpKind := .ncopy f.dsp dst d name (metaDepth m) (metaLen m)
      let u := if metaLen m = 0 then s3.unpin c dom name else s3
      s'.chanFull f.ch.toNat = false → dst.toNat % 4 = 0 → metaLen m % 4 = 0 → s'.issueBounds (kind 0) = none →
      s'.regionOf f.region = some dom → s'.rootNameOk dom name = true → metaOk m = true →
      s'.pin c dom name = (true, s3) →
      ∃ t, exec (.ncopy f) s = .next t
        ∧ Issued u t (ilen f.ext) (some f.ch.toNat) (kind dom) (if metaLen m = 0 then .finished else .queued) false)
    ∧ ∀ (f : NstatOp) (dom : Nat), s'.regionOf f.region = some dom →
      let nm := r.name f.a.toNat
      let tells (x : Nat) : Prop := goes (.nstat f) (ilen f.ext) fun t r' =>
        WroteScal r r' f.d.toNat (BitVec.ofNat 64 x) ∧ t.domains = s'.domains ∧ t.mem = s'.mem
      (f.sub = .pool → tells (s'.freeLines dom))
      ∧ (f.sub = .pins → nameValid nm = true → tells ((s.ctx c).pinsOn dom nm))
      ∧ (f.sub = .count → nameValid nm = true →
          tells (match (if nameReal nm then (s.domain dom).find nm else none) with
            | none => 0
            | some l => l.count + 2 ^ 32 + if l.immortal then 2 ^ 33 else 0)))
  ∧ (∀ (s : State) (dom : Nat) (bs : List MByte) (n : Name), isZeroLine 0 bs = false →
      (s.domain dom).lookup (bs.map (·.val)) 0 = .absent n → nameKind n = 0 → (s.ctx s.myCtx).canPin dom n = true →
      s.freeOn dom (nameStack n) ≠ 0 →
      ∃ p s4, s.putLine dom 0 false bs = (.ok p, s4) ∧ p.name = n ∧ p.status = 0 ∧ p.found = false
        ∧ (s4.domain dom).lines = (s.domain dom).lines ++ [⟨n, bs, 1, false⟩]
        ∧ (s4.ctx s.myCtx).pinsOn dom n = (s.ctx s.myCtx).pinsOn dom n + 1)
  ∧ ∀ (s : State) (i j : Nat) (d : Domain) (n : Name), s.domains.find? i = some d → d.reclaim[j]? = some n →
      ∃ k t, exec (.reclaim k) s = .next t ∧ t.domain i = ({ d with reclaim := d.reclaim.eraseIdx j } : Domain).dec n
        ∧ ∀ x, x ≠ i → t.domain x = s.domain x

/-! ### Speculation -/

/-- R303 to R313, R318 to R321: TRY opens a region with a checkpoint, nests, and past DEPTH 4 aborts it; where an active lane has left
the open region it aborts what is left of that with NESTING, in group mode too lane by lane (DEDUCED, log entry 10), closes it, and opens
a region for its own active lanes. COMMIT publishes the stores
of its lanes, and closes the region with the last of them; ABORT rolls the registers and predicates of its lanes back, in group mode
those of the whole region, and the scalars and `stk.ptr` when all its lanes go back; an instruction or a page that R307 marks UNSUPPORTED
aborts all of RM, and a BKPT or a failed check aborts with FAULT (in group mode a lane that did not fail has the code of the lowest failing
lane: DEDUCED, log entry 10); TSTAT reads the region's state;
SPECULATION_CONFLICT takes, at an instruction boundary, the conflicts that are due. -/
def Obligations.SpeculativeRegions : Prop :=
  ∀ (s : State),
    let s' := s.flush s.cur
    let x := s'.grp
    let rm := s.grp.region.rm
    let act := s.th.act Guard.always
    let goes (t : State) (n : Nat) (r : Regs) : Prop := t.th.pc = s.th.pc + n ∧ t.th.regs = r ∧ t.th.exec = s.th.exec
      ∧ t.th.live = s.th.live ∧ t.mem = s.mem
    (∀ f : TryOp, act ≠ 0 →
      (s.grp.region.depth = 0 → ∃ t, exec (.tryOp f) s = .next t ∧ goes t 16 s.th.regs
        ∧ t.th.stack = .tryE (s.th.target f.target)
            :: pushJoin ((s.kernelOf s.grp).joinOf s.th.body (s.th.pc / 8)) s.th.exec s.th.stack
        ∧ t.grp.abortc = 0 ∧ t.grp.region = { depth := 1, mode := f.group, rm := act, entry := act, ckRegs := s.th.regs
                                              ckPtr := s.grp.stkptr, ckBody := s.th.body, ckDepth := s.th.depth })
      ∧ (0 < s.grp.region.depth → act &&& ~~~rm = 0 →
        (s.grp.region.depth < 4 → ∃ t, exec (.tryOp f) s = .next t ∧ goes t 16 s.th.regs ∧ t.th.stack = s.th.stack
          ∧ t.grp.region = { s.grp.region with depth := s.grp.region.depth + 1 })
        ∧ (4 ≤ s.grp.region.depth → exec (.tryOp f) s = .next (s'.setGrp (x.abortAll 8))))
      ∧ (0 < s.grp.region.depth → act &&& ~~~rm ≠ 0 → s.grp.hnd = none →
        let own := act &&& ~~~rm
        let am := s.grp.region.am ||| rm
        let all : Bool := rm != 0 && !s.grp.region.anyc && rm == (s.grp.region.entry &&& ~~~s.th.ended)
        ∃ t, exec (.tryOp f) s = .next t ∧ t.th.pc = s.th.pc + 16 ∧ t.th.exec = s.th.exec &&& ~~~rm
          ∧ t.th.strand = s.th.strand &&& ~~~rm ∧ t.th.live = s.th.live ∧ t.mem = s.mem ∧ t.grp.abortc = 0
          ∧ t.grp.region = { depth := 1, mode := f.group, rm := own, entry := own, ckRegs := t.th.regs
                             ckPtr := t.grp.stkptr, ckBody := s.th.body, ckDepth := s.th.depth }
          ∧ t.grp.stkptr = (if all then s.grp.region.ckPtr else s.grp.stkptr)
          ∧ (savedAtTry s.th.stack = none → RolledBack s.grp.region.ckRegs rm all s.th.regs t.th.regs)
          ∧ ∀ above tgt below, s.th.stack = above ++ .tryE tgt :: below →
              (∀ e ∈ above, (∃ p m, e = .join p m) ∨ ∃ p m a, e = .pending p m a) →
              t.th.stack = .tryE (s.th.target f.target) :: pushJoin ((s.kernelOf s.grp).joinOf s.th.body (s.th.pc / 8)) t.th.exec
                ((above.map fun e => match e with
                    | .join p m => .join p (m &&& ~~~rm)
                    | .pending p m a => .pending p (m &&& ~~~rm) a
                    | e => e)
                  ++ (if am &&& s.th.live &&& ~~~s.th.ended = 0 then below else .pending tgt am true :: below))))
    ∧ (∀ f : PlainOp, act ≠ 0 →
      (s.grp.region.depth = 0 → exec (.commit f) s = .next (s'.advance (ilen f.ext)))
      ∧ (1 < s.grp.region.depth → ∃ t, exec (.commit f) s = .next t ∧ goes t (ilen f.ext) s.th.regs
          ∧ t.grp.region = { s.grp.region with depth := s.grp.region.depth - 1 })
      ∧ (s.grp.region.depth = 1 → x.conflictDue = false → x.preemptDue = false → act &&& rm ≠ 0 →
          let left := rm &&& ~~~(act &&& rm)
          ∃ t, exec (.commit f) s = .next t ∧ goes t (ilen f.ext) s.th.regs ∧ t.grp.region.rm = (if left &&& s.th.live = 0 then 0 else left)
            ∧ (left &&& s.th.live = 0 → t.grp.region.depth = 0 ∧ t.grp.region.buffer = [])
            ∧ (left &&& s.th.live ≠ 0 → t.grp.region.depth = 1 ∧ t.grp.region.anyc = true)
            ∧ (t.core s.grp.core).stores.map (fun y => (y.w.loc, y.w.bytes.map (·.val)))
                = (s'.core s.grp.core).stores.map (fun y => (y.w.loc, y.w.bytes.map (·.val)))
                  ++ (s.grp.region.buffer.filter fun y => (act &&& rm).getLsbD y.lane).map fun y => (y.w.loc, y.w.bytes.map (·.val))))
    ∧ (∀ f : AbortOp, s.th.act f.guard ≠ 0 →
      let own := s.th.act f.guard &&& s.grp.rm
      (own = 0 → exec (.abort f) s = .next (s.went (ilen f.ext) s.th.regs))
      ∧ (own ≠ 0 → ∃ t, exec (.abort f) s = .next t ∧ Aborted s t own fun _ => BitVec.ofNat 16 (7 + 256 * f.code.toNat)))
    ∧ (∀ i g n, i.unsupported = true → i.guardLen = some (g, n) → s.th.act g &&& s.grp.rm ≠ 0 →
        ∃ t, exec i s = .next t ∧ Aborted s t rm fun _ => 6)
    ∧ (∀ f : TrapOp, s.th.act f.guard &&& s.grp.rm ≠ 0 → s.th.act f.guard &&& ~~~s.grp.rm = 0 →
        ∃ t, exec (.bkpt f) s = .next t ∧ Aborted s t (s.th.act f.guard) fun _ => 4 + 256 * 0x13)
    ∧ (∀ (f : MemOp) (rs : List (Nat × Except Failed Target)) (s1 : State),
        let act := s.th.act f.guard
        let own := act &&& s.grp.rm
        let fs := failedLanes rs
        let named : Mask := if f.su then act else lanesMask (fs.map (·.1))
        let bad (y : Nat × Except Failed Target) : Prop := own.getLsbD y.1 = true ∧ match y.2 with
          | .ok x => x.unsup = true
          | .error x => x.unsup = true
        let code (l : Nat) : Nat := (((fs.find? fun y => y.1 == l).or fs.head?).map (·.2.code)).getD 0
        let aborts (i : Instr) (sp : MSpace) (u : Use) : Prop :=
          s.targets sp (accSize f.acc) u (s.env.ea f.a f.vb (sp != .own) f.addr) (regionLanes act own f.su) = (rs, s1) → own ≠ 0 →
          ((∃ y ∈ rs, bad y) → ∃ t, exec i s = .next t ∧ Aborted s t rm fun _ => 6)
          ∧ ((∀ y ∈ rs, ¬bad y) → fs ≠ [] → named &&& ~~~s.grp.rm = 0 →
              ∃ t, exec i s = .next t ∧ Aborted s t named fun l => BitVec.ofNat 16 (4 + 256 * code l))
        aborts (.ld f) .glob .load ∧ aborts (.lds f) .own .load ∧ aborts (.ldp f) .peer .load
        ∧ aborts (.st f) .glob .store ∧ aborts (.sts f) .own .store ∧ aborts (.stp f) .peer .store)
    ∧ (∀ f : TstatOp, act ≠ 0 → ∃ r, exec (.tstat f) s = .next (s.went (ilen f.ext) r) ∧
        match f.sub with
        | .code => WroteVec s.th.regs r f.d.toNat 32 act fun l => (Tab.get 0 s.grp.region.code l).toNat
        | .state => WroteScal s.th.regs r f.d.toNat s.grp.region.status
        | .mask => WroteScal s.th.regs r f.d.toNat (rm.setWidth 64))
    ∧ ∀ g, (s.group g).atBoundary = true → (s.group g).conflictDue = true →
        ∃ t, exec (.speculationConflict g) s = .next t ∧ (t.group g).conflict = 0 ∧ (t.group g).ue = 0 ∧ t.mem = s.mem
          ∧ (∀ h, h ≠ g → t.group h = s.group h)
          ∧ ((s.group g).region.depth ≠ 0 → (s.group g).region.mode = false →
              (t.group g).region.rm = (s.group g).region.rm &&& ~~~(s.group g).conflict &&& ~~~(s.group g).ue)

/-! ### System -/

/-- R24, R26, R53, R335, R338, R345 to R350: each special register has its value, and a handler reads the interrupted group's but for
`laneid` and `quadid`, which read 0 there; SGET reads a special register, and a read of `clock` advances it; SSET writes the three that can
be written, where lanes of a region add to `exec` no lane outside RM (R307); PERF reads, and may clear, a counter, which never falls
but by that; what time adds to one, and at most how much, is the model's choice (DESIGN CHOICE, log entry 14); the debug instructions write a record, and halt only for a debugger. That `faultva` of STACK_LIMIT is 0 is the model's choice (DESIGN
CHOICE, log entry 53), and the pc of a group that a debugger halts its reading (DEDUCED, log entry 30). -/
def Obligations.SystemInstructions : Prop :=
  ∀ (s : State),
    let act := s.th.act Guard.always
    (let x := s.grp
      let o := x.outer
      let b := s.block x.block
      let g := s.launch b.launch
      let good (i : Nat) : Bool := (s.core x.core).lmap.getLsbD (32 * x.half + i)
      let (nx, ny) := (g.field 1 31 0, g.field 1 63 32)
      ∀ l, let v (sp : Special) : Nat := s.special sp l
        v .exec = o.exec.toNat ∧ v .live = o.live.toNat
        ∧ v .laneid = (if x.hnd = none then l else 0) ∧ v .quadid = (if x.hnd = none then l / 4 else 0)
        ∧ v .grpid = x.grpid ∧ v .lidcore = b.lidCore ∧ v .lidclus = b.lidCore / 4
        ∧ v .nblkx = nx ∧ v .nblky = ny ∧ v .nblkz = g.field 2 31 0
        ∧ (0 < nx → 0 < ny → v .blkx < nx ∧ v .blky < ny ∧ v .blkx + nx * (v .blky + ny * v .blkz) = b.lin)
        ∧ v .lmap = (s.core x.core).lmap.toNat ∧ v .clock = (s.core x.core).clock.toNat
        ∧ (v .npass = 1 ∨ v .npass = 2) ∧ (v .npass = 1 ↔ x.l16 = true ∨ ∀ i, i < 32 → good i = true)
        ∧ v .abortc = x.abortc.toNat ∧ v .faultc = x.faultc.toNat ∧ v .faultva = x.faultva.toNat
        ∧ v .stkptr = x.stkptr.toNat ∧ v .stklim = x.stklim.toNat ∧ v .dbase = g.field 13 63 0)
    ∧ (∀ f : SgetOp, s.th.act f.guard ≠ 0 →
      let u := if f.sp = .clock then (s.readClock s.grp.core).2 else s
      ∃ r, exec (.sget f) s = .next (u.went (ilen f.ext) r) ∧ u.th = s.th ∧ u.mem = s.mem
        ∧ if f.u then WroteScal s.th.regs r f.d.toNat (BitVec.ofNat 64 (u.special f.sp 0))
          else WroteVec s.th.regs r f.d.toNat (if f.sp.wide then 64 else 32) (s.th.act f.guard) (u.special f.sp))
    ∧ (∀ f : SsetOp, act ≠ 0 →
      let v (w : Nat) : Nat := s.env.uval f.b w
      let o := s.grp.outer
      (f.sp = .stkptr → v 64 < s.grp.stklim.toNat → s.Outside → s.grp.hnd = none →
        Faults (.sset f) s s (ilen f.ext) 0x0F 0 0)
      ∧ (f.sp ≠ .stkptr ∨ s.grp.stklim.toNat ≤ v 64 → ∃ t, exec (.sset f) s = .next t ∧ t.th.pc = s.th.pc + ilen f.ext
        ∧ t.th.regs = s.th.regs ∧ t.th.stack = s.th.stack ∧ t.mem = s.mem ∧ (∀ g, g ≠ s.cur → t.group g = s.group g)
        ∧ (f.sp = .exec → t.grp.outer.exec
            = BitVec.ofNat 32 (v 32) &&& o.strand &&& ~~~o.ended &&& ~~~(o.outside ||| s.absentOf s.grp)
              &&& if act &&& s.grp.rm = 0 then 0xFFFFFFFF else o.exec ||| s.grp.rm)
        ∧ (f.sp = .live → t.grp.outer.live = match s.grp.hnd with
            | some h => if h.fault.code = 0x10 then
                BitVec.ofNat 32 (v 32) &&& (o.live ||| h.fault.killed) &&& ~~~(s.absentOf s.grp) else o.live
            | none => o.live)
        ∧ (f.sp = .stkptr → t.grp.stkptr = BitVec.ofNat 64 (v 64))
        ∧ (f.sp ≠ .exec → f.sp ≠ .live → f.sp ≠ .stkptr → t = s.went (ilen f.ext) s.th.regs)))
    ∧ (∀ f : PerfOp, act ≠ 0 →
      let i := s.env.uval f.b 64
      ∃ t r, exec (.perf f) s = .next t ∧ t.th = { s.th with pc := s.th.pc + ilen f.ext, regs := r } ∧ t.mem = s.mem
        ∧ (12 ≤ i → WroteScal s.th.regs r f.d.toNat 0)
        ∧ (i < 12 → ∃ v : DWord, WroteScal s.th.regs r f.d.toNat v ∧ (Tab.get 0 s.grp.perf i).toNat ≤ v.toNat
            ∧ (perfFree s.grp i = false → v = Tab.get 0 s.grp.perf i)
            ∧ (i = 1 ∨ i = 6 ∨ i = 11 → v.toNat ≤ (Tab.get 0 s.grp.perf i).toNat + (Tab.get 0 s.grp.perf (16 + i)).toNat))
        ∧ (f.clr = true → 0 < i → i < 12 → (i = 1 → s.grp.passes = 0) → Tab.get 0 t.grp.perf i = 0))
    ∧ (∀ f : DbgLogOp, act ≠ 0 → s.Outside →
      let s' := s.flush s.cur
      let (clk, u) := s'.readClock s.grp.core
      exec (.dbgLog f) s = .next ((u.dbgRecord (s.ctxOf s.cur)
        (leBytes 8 (f.tag.toNat + s.grp.grpid * 2 ^ 32) ++ leBytes 8 (s.th.regs.scal f.a.toNat).toNat
          ++ leBytes 8 (s.th.pc + (s.block s.grp.block).lidCore * 2 ^ 32) ++ leBytes 8 clk.toNat)).advance (ilen f.ext)))
    ∧ ∀ f : PlainOp, act ≠ 0 → s.Outside →
      ∃ t, exec (.dbgHalt f) s = .next t ∧ t.th = { s.th with pc := s.th.pc + ilen f.ext } ∧ t.mem = s.mem
        ∧ t.grp.wait = if (s.ctx (s.ctxOf s.cur)).debugger then .halt else s.grp.wait

/-! ### Launches, service and pre-emption -/

/-- R27, R120, R132, R328 to R330, R353 to R361: kicks and ticks, fetching and checking a record, translations, placing a
launch cluster whose groups start afresh, and the releases and status with which blocks and grids end. Which releases a retiring block
and a grid make is log entry 42's, the slots that are open and what fits nowhere 44's, and the lines of a translation, and which launches
one that fails stops, with which status, 60's. -/
def Obligations.LaunchEvents : Prop :=
  (∀ (fn q ctx : Nat) (v : BitVec 32) (s : State), s.ctxOfFn fn = some ctx → q < (s.ctx ctx).field 36 9 0 →
    let x := (s.readQcb ctx q).queue ctx q
    x.enabled = true →
    let bad : Bool := decide (2 ^ x.log2 < (v - x.rd).toNat) || decide (2 ^ 31 ≤ (v - x.wr).toNat)
    (bad = true → ∃ t, exec (.kick fn q v) s = .next t ∧ t.queue ctx q = { x with err := true })
    ∧ (bad = false → x.slot.isSome = true ∨ x.pend = true →
        ∃ t, exec (.kick fn q v) s = .next t ∧ t.queue ctx q = { x with wr := v })
    ∧ (bad = false → x.slot = none → x.pend = false → ∃ u : State, exec (.kick fn q v) s = .next u.mapAll
        ∧ u.queue ctx q = { x with wr := v, pend := true, tpend := s.tick } ∧ u.groups = s.groups))
  ∧ (∀ s : State, exec .schedulingTick s = .next { s with tick := s.tick + 1 }.mapAll ∧ s.mapAll.tick = s.tick
      ∧ ∀ ctx c q, (s.queue c q).slot.isSome = true →
          ((s.mapQueues ctx).queue c q).rd = (s.queue c q).rd ∧ ((s.mapQueues ctx).queue c q).wr = (s.queue c q).wr)
  ∧ (∀ (ctx q : Nat) (bs : List MByte) (s : State),
    let x := s.queue ctx q
    let at_ := (x.base.toNat + 128 * (x.rd.toNat % 2 ^ x.log2)) % 2 ^ 64
    let y : Launch := { ctx := ctx, queue := q, index := x.rd.toNat, addr := BitVec.ofNat 64 at_
                        record := (List.range 16).map fun i => BitVec.ofNat 64 (mVal ((bs.drop (8 * i)).take 8)) }
    x.slot.isSome = true → x.enabled = true → x.err = false → x.rd ≠ x.wr → s.readVirtual ctx at_ 128 = some bs →
    ∃ (u t : State) (l : Nat), exec (.launchFetch ctx q) s = .next t ∧ s.launches.find? l = none ∧ u.queue ctx q = { x with rd := x.rd + 1 }
      ∧ u.launch l = y
      ∧ (recordOk y = true → t = (if (u.queue ctx q).drained then u.mapAll else u) ∧ t.launch l = y)
      ∧ (recordOk y = false → (t.launch l).status = 0x52
          ∧ ((u.queue ctx q).drained = false → t.queue ctx q = { x with rd := x.rd + 1 })))
  ∧ (∀ (l : Nat) (s : State), (s.launches.find? l).isSome = true → (s.launch l).st = .waiting →
    let x := s.launch l
    (s.waits l = .wait → exec (.launchWaitPoll l) s = .next (s.noteWaits x))
    ∧ (s.waits l = .met → ∃ t, exec (.launchWaitPoll l) s = .next t ∧
        match ((s.noteWaits x).noteObject x).checkObject x with
        | .ok (k, bank, dg) => (t.launch l).kernel = k ∧ (t.launch l).consts = bank ∧ (t.launch l).digest = dg
            ∧ ((t.launch l).st = .translating ∨ (t.launch l).st = .placing)
        | .error (c, _) => c ≠ ldNoObject → (t.launch l).status = c))
  ∧ (∀ (n : Nat) (x : Trans) (s : State), s.trans.find? n = some x →
    let stored (t : State) (y : Trans) : Prop :=
      ∃ ls slot, t.trans.find? n = some { y with lines := ls, slot := slot }
    let failed (t : State) : Prop := t.trans.find? n = none ∧ ∃ status ∈ [0x01, 0x40, 0x41, 0x42, 0x43, 0x44, 0x45],
      ∀ l, (s.launches.find? l).isSome = true → s.needsTrans l x = true → (t.launch l).status = status
    (∃ t, exec (.translationComplete n) s = .next t ∧ (∀ g, (t.group g).th = (s.group g).th)
      ∧ (x.asking = false → s.trdomReady x.dom = false → failed t)
      ∧ (x.asking = false → stored t { x with done := true, asking := false } ∨ failed t)
      ∧ (x.asking = true → stored t { x with done := true, asking := false } ∨ failed t
          ∨ t.trans.find? n = some { x with asking := false }))
    ∧ (∃ t, exec (.peerTranslationTimeout n) s = .next t ∧ t.trans.find? n = some { x with asking := false })
    ∧ (x.done = true → (s.domain x.dom).reopt < x.issued → ∃ t, exec (.reoptimise n) s = .next t
        ∧ stored t { x with generation := x.generation + 1, issued := 0 } ∧ ∀ g, (t.group g).th = (s.group g).th)
    ∧ (x.issued ≤ (s.domain x.dom).reopt → exec (.reoptimise n) s = .next s))
  ∧ (∀ (l : Nat) (s : State),
    let x := s.launch l
    let k := x.kernel
    let s1 := s.setLaunch l { x with began := true }
    x.toPlace = true → s.previousPlacing l = true → s.gangOpen x.ctx = true →
    (x.placed = 0 → s1.noFit l = true → ∃ t, exec (.blockPlace l) s = .next t ∧ (t.launch l).status = 0x50)
    ∧ ((x.placed = 0 → s1.noFit l = false) → k.cosched = false → 1 ≤ x.csize → x.placed * x.csize < x.nBlocks →
      (s1.placeNext l).isSome = true →
      ∃ t b, exec (.blockPlace l) s = .next t ∧ (t.launch l).placed = x.placed + 1
        ∧ ((t.launch l).st = .running ↔ x.nClusters ≤ x.placed + 1)
        ∧ s.blocks.find? b = none ∧ (t.block b).launch = l ∧ (t.block b).lin = x.placed * x.csize
        ∧ (t.block b).groups.length = k.nGroups
        ∧ ∀ g ∈ (t.block b).groups, s.groups.find? g = none ∧ (t.group g).block = b ∧ (t.group g).th.regs = {}
            ∧ (t.group g).th.stack = [] ∧ (t.group g).retired = false
            ∧ (t.group g).th.pc = 8 * ((k.entries[k.lentry]?).getD ⟨0, 0⟩).woff))
  ∧ (∀ (b : Nat) (s : State), (s.block b).st = .retiring → s.opsRunning b = false →
    let x := s.block b
    ((s.launch x.launch).aborted = true ∨ (∃ m, x.rel = some m ∧ s.relDone m = true) →
      ∃ t, exec (.blockRetire b) s = .next t ∧ (t.block b).st = .retired ∧ (t.block b).chans = [] ∧ (t.block b).tiles = [])
    ∧ (∀ g gs, (s.launch x.launch).aborted = false → x.rel = none → x.groups = g :: gs →
      ∃ t m r, exec (.blockRetire b) s = .next t ∧ (t.block b).rel = some m ∧ (t.block b).st = .retiring
        ∧ t.rels.find? m = some r ∧ r.scope = 3 ∧ r.mask = 6))
  ∧ ∀ (l : Nat) (s : State), s.gridRetired l = true →
    ((s.launch l).rels = none → ∃ t, exec (.gridComplete l) s = .next t ∧ (t.launch l).rels.isSome = true)
    ∧ ∀ ms, (s.launch l).rels = some ms → (∀ m ∈ ms, s.relDone m = true) →
      ∃ t, exec (.gridComplete l) s = .next t ∧ (t.launch l).status = (if (s.launch l).aborted then (s.launch l).status else 0)
        ∧ ((t.launch l).st = .finished ∨ (t.launch l).st = .signalling)

/-- R147, R148, R316, R325, R331, R332, R340 to R343, R364: page service resumes a group or delivers its fault; requests
mark the clusters of a unit; a pre-emption saves it, unless the save pool is too small and it keeps running, or discards it, and a resume
makes its blocks resident with their threads as they were. The model's own choices in it: when a pre-emption is taken (log entry 16),
the least size of a save pool (24), where a unit resumes (40), that an unresolvable fault of a discarded unit's group delivers nothing and
that no fault is still in service where a unit resumes (DEDUCED, log entry 39), the pc of a group that a debugger halts in place of a fault
(DEDUCED, log entry 30), and what clusters a context holds after a tick of its time
slice (log entry 32). -/
def Obligations.ServiceAndPreemption : Prop :=
  (∀ (g a : Nat) (pte : BitVec 64) (s : State), s.Inv →
    ∃ t, exec (.pageServiceResolve g a pte) s = .next t ∧ (t.group g).th = (s.group g).th
      ∧ (∀ f, (s.group g).wait = .page f → (t.group g).wait = .none ∧ g ∉ (t.core (s.group g).core).stall)
      ∧ (∀ o, (s.op o).grp = g → (t.op o).paging = none)
      ∧ ∀ i, i < 8 → (t.homeByte (a + i)).val = BitVec.ofNat 8 (pte.toNat / 256 ^ i))
  ∧ (∀ (g : Nat) (f : FaultInfo) (s : State), (s.group g).wait = .page f →
    let gone : Prop := ∃ u ∈ s.units, u.2.discarded = true ∧ (s.group g).block ∈ u.2.blocks
    (¬gone → (s.group g).hnd = none → ∃ t, exec (.pageServiceUnresolvable g) s = .next t ∧ TookFault s t g f)
    ∧ (gone → ∃ t, exec (.pageServiceUnresolvable g) s = .next t ∧ (t.group g).wait = .none ∧ (t.group g).th = (s.group g).th))
  ∧ (∀ (cl : Nat) (s : State), ∃ t, exec (.preemptionRequest cl) s = .next t ∧ Requested s t cl false ∧ t.mem = s.mem)
  ∧ (∀ (core : Nat) (s : State), (s.core core).stall ≠ [] →
    ∃ t, exec (.faultStallTimeout core) s = .next t ∧ Requested s t (clusterOf core) true ∧ t.mem = s.mem)
  ∧ (∀ (g : Nat) (s : State), (s.group g).np = true → (s.group g).retired = false →
    ∃ t, exec (.nopreemptOverrun g) s = .next t ∧ t.group g = { s.group g with np := false, overrun := true }
      ∧ let c := (s.group g).core
        let now := (t.core c).clock.toNat
        min (2 ^ 64 - 1) ((s.group g).npClock.toNat + 100000) ≤ now ∧ (s.core c).clock.toNat ≤ now
        ∧ ∀ h, h ≠ g → let x := s.group h
            t.group h = if x.core = c ∧ x.np = true ∧ x.retired = false ∧ x.npClock.toNat + 100000 ≤ now then
              { x with np := false, overrun := true } else x)
  ∧ (∀ (cl : Nat) (s : State), s.preemptible cl = true →
    let cls := s.unitClusters cl
    let bs := s.residentOn cls
    let due : Bool := (s.groupsIn bs).any fun x => x.2.openHere || x.2.unsettled
    let saved (how : Bool) (t : State) : Prop := (∀ b ∈ bs, (t.block b).st = .saved) ∧ (∀ c ∈ cls, (t.cluster c).preempt = false)
      ∧ ∃ u x, s.units.find? u = none ∧ t.units.find? u = some x ∧ x.blocks = bs ∧ x.discarded = how
    bs ≠ [] →
    ((s.cluster cl).taken = false → exec (.preemption cl) s = .next (s.request cl false))
    ∧ ((s.cluster cl).taken = true → (s.cluster cl).discard = true → s.discardable bs = true →
      (((s.groupsIn bs).any fun x => x.2.overrun) = true → exec (.preemption cl) s = .next s)
      ∧ (((s.groupsIn bs).any fun x => x.2.overrun) = false → cl ∈ cls →
          ∃ t, exec (.preemption cl) s = .next t
            ∧ if (s.poolSmall true bs cls).1 = true then t.blocks = s.blocks ∧ ∀ c ∈ cls, (t.cluster c).poolWait = true
              else saved true t))
    ∧ ((s.cluster cl).taken = true → (s.cluster cl).discard = false ∨ s.discardable bs = false →
      ∃ u t, exec (.preemption cl) s = .next t ∧ (∀ g, (t.group g).th = (s.group g).th)
        ∧ if (s.poolSmall false bs cls).1 = true then t.blocks = s.blocks ∧ ∀ c ∈ cls, (t.cluster c).poolWait = true
          else if due = true then Requested u t cl false ∧ u.groups = s.groups ∧ u.blocks = s.blocks ∧ t.blocks = s.blocks
            ∧ ∀ c ∈ cls, (u.cluster c).discard = false
          else saved false t))
  ∧ (∀ (u b : Nat) (bs : List Nat) (x : MoveUnit) (s : State), s.units.find? u = some x → x.blocks = b :: bs →
    s.gangOpen (s.ctxOfBlock b) = true → (∀ y ∈ s.groupsIn x.blocks, y.2.serviced = none) →
    let olds := x.blocks.foldl (fun (acc : List Nat) b =>
      let c := clusterOf (s.block b).core
      if acc.contains c then acc else acc ++ [c]) []
    (s.moveUnit (s.ctxOfBlock b) x olds).isSome = true →
    ∃ t, exec (.unitResume u) s = .next t ∧ t.units.find? u = none ∧ (∀ g, (t.group g).th = (s.group g).th)
      ∧ ∀ c, c ∈ x.blocks → (s.block c).st = .saved → (t.block c).st = .resident)
  ∧ ∀ (ctx : Nat) (s : State), (s.contexts.find? ctx).isSome = true →
    ∃ t, exec (.timeSliceExpiry ctx) s = .next t ∧ t.mem = s.mem
      ∧ (∀ c, c ∈ (t.ctx ctx).clusters → c < 128 ∧ (s.cluster c).inService = true)
      ∧ ∀ cl, s.unitClusters cl = [cl] → (∃ y ∈ s.blocks, y.2.st = .resident ∧ s.ctxOfBlock y.1 = ctx ∧ clusterOf y.2.core = cl) →
          (t.cluster cl).preempt = true

/-! ### Reliability and boot -/

/-- R18, R22, R28, R380 to R397: drains, fuses and tests of cores and clusters, scrubs, the clocks of hot dies; and a boot
whose steps succeed starts the package afresh with its persistent state, where one whose step overruns leaves it stopped. That memory
lists nothing after a boot is log entry 35's, the passes that end a quarantine 29's, and which steps take their alternate 36's; the
names that a scrub gives tile rows and queue elements are 15's (DESIGN CHOICE). -/
def Obligations.ReliabilityAndBoot : Prop :=
  (∀ (core : Nat) (s : State),
    (s.redundantOn core = true →
      ∃ t, exec (.coreDrain core .quarantine) s = .next t ∧ (t.core core).quarantine = true ∧ (t.core core).passes = 0
      ∧ (t.core core).drain = true ∧ (t.cluster (clusterOf core)).testDue = true
      ∧ Requested (s.rewindCore core) t (clusterOf core) false
      ∧ ∀ g x, s.groups.find? g = some x → x.core = core → x.retired = false → (s.block x.block).st = .resident →
          (t.group g).th = x.rewind.th ∧ (t.group g).gated = x.rewind.gated ∧ (t.group g).region = x.rewind.region)
    ∧ (∃ t, exec (.coreDrain core .test) s = .next t ∧ (t.core core).drain = true ∧ Requested s t (clusterOf core) false)
    ∧ ∀ lane, ∃ t, exec (.coreDrain core (.fuse lane)) s = .next t ∧ (t.core core).fuseDue = true
        ∧ Requested s t (clusterOf core) false)
  ∧ (∀ (core lane : Nat) (s : State), (s.core core).fuseDue = true → s.coreBusy core = false →
    let bit := 1#64 <<< (lane % 64)
    ∃ t, exec (.laneFuse core lane) s = .next t ∧ (t.core core).lmap = wholeHalves ((s.core core).lmap &&& ~~~bit)
      ∧ (t.core core).fuseDue = false ∧ (t.core core).drain = (s.core core).drain ∧ Tab.get 0 t.fuses core = Tab.get 0 s.fuses core ||| bit)
  ∧ (∀ (cl : Nat) (s : State), (s.cluster cl).inService = true → (s.cluster cl).underTest = false →
    let wait : Bool := s.testBlocked cl || (s.coschedOn cl && !(s.cluster cl).testDue)
    ∃ t, exec (.inFieldTest cl) s = .next t ∧ (t.cluster cl).testDue = wait ∧ (t.cluster cl).underTest = !wait)
  ∧ (∀ (cl : Nat) (outcome : TestEnd) (s : State), (s.cluster cl).underTest = true → s.blocksOnCluster cl = [] →
    ∃ t, exec (.inFieldTestEnd cl outcome) s = .next t ∧ (t.cluster cl).underTest = false
      ∧ (∀ i, i < 4 → (t.core (4 * cl + i)).drain = false ∧ (t.core (4 * cl + i)).fuseDue = (s.core (4 * cl + i)).fuseDue)
      ∧ (outcome = .otherFails → (t.cluster cl).inService = false)
      ∧ ∀ core lane, outcome = .laneFails core lane → (t.core (4 * cl + core % 4)).lmap
          = wholeHalves ((s.core (4 * cl + core % 4)).lmap &&& ~~~(1#64 <<< (lane % 64))))
  ∧ (∀ (stack : Nat) (fixed bad : List Nat) (s : State), ∃ t, exec (.scrub stack fixed bad) s = .next t
      ∧ t.mem = s.mem ∧ (∀ g, (t.group g).th = (s.group g).th) ∧ (bad = [] → t.groups = s.groups ∧ t.poison = s.poison)
      ∧ (stack < 8 → Tab.get 0 t.counters (stackCounter stack 0x18)
          = BitVec.ofNat 64 (min (2 ^ 64 - 1) ((Tab.get 0 s.counters (stackCounter stack 0x18)).toNat + 1)))
      ∧ (∀ a i, a ∈ bad → 0x8000000000 ≤ a → a < registerKey 0 0 → i < 32 → t.poison.has (a / 32 * 32 + i) = true)
      ∧ ∀ b x, s.blocks.find? b = some x → x.st ≠ .retired →
          (∀ k row, k < 16 → k < (s.launch x.launch).kernel.tiles → row < 128 → tileKey b k row ∈ bad → tileKey b k row < resultKey 0 0 0 →
            (t.tile b k).poison.getLsbD row = true)
          ∧ ∀ q i e, q < 8 → i < 2 ^ 64 → resultKey b q i ∈ bad → resultKey b q i < copyKey 0 0 → (s.rqueue b q).elems.find? i = some e →
              e.written = true → (t.rqueue b q).elems.find? i = some { e with poison := true })
  ∧ (∀ (m : Nat) (s : State), m < 16 → m ∉ s.mallets →
      ∃ t, exec (.malletCoreFailover m) s = .next t ∧ t.mallets = m :: s.mallets ∧ t.groups = s.groups ∧ t.mem = s.mem
        ∧ ((∀ i, i < 4 → 4 * (m / 4) + i ∈ m :: s.mallets) → t.dieManaged (m / 4) = false ∧ t.reports.head?.map (·.2) = some [m / 4])
        ∧ ((∃ i, i < 4 ∧ 4 * (m / 4) + i ∉ m :: s.mallets) → t.dieManaged (m / 4) = true ∧ t.reports = s.reports))
  ∧ (∀ (stack : Nat) (s : State), exec (.phyRecalibration stack) s = .next s)
  ∧ (∀ (clocks : List Nat) (s : State), ∃ t, exec (.powerArbiterTick clocks) s = .next t ∧ t.groups = s.groups ∧ t.mem = s.mem
      ∧ ∀ c x, c < 128 → clocks[c]? = some x → 11 ≤ (t.cluster c).clock ∧ (t.cluster c).clock ≤ 33
          ∧ (c / 32 ∉ s.hotDies → (t.cluster c).clock = max 11 (min 33 x)))
  ∧ (∀ (die : Nat) (s : State), ∃ t, exec (.thermalLimit die) s = .next t ∧ t.groups = s.groups ∧ t.mem = s.mem
      ∧ ∀ i, i < 32 → (t.cluster (32 * die + i)).clock = 11)
  ∧ ∀ s : State, (∀ step, takesAlternate s.journal (s.bootCount + 1) step = false) →
      s.firmwareCounter ≤ s.fwVersions.1 →
      (∀ tries : List BootTry, (∀ x ∈ tries, x.primaryOk = true) →
        ∃ t, exec (.boot tries) s = .next t ∧ t.booted = true ∧ t.bootCount = s.bootCount + 1 ∧ t.mem = [] ∧ t.groups = []
          ∧ t.contexts = [] ∧ t.nonce = s.nonce ∧ t.kernelCounter = s.kernelCounter ∧ t.keys = s.keys
          ∧ ∀ c, c < 512 → (t.core c).lmap = wholeHalves (Config.fusedLmap c &&& ~~~(Tab.get 0 s.fuses c)))
      ∧ ∀ step, 1 ≤ step → step ≤ 8 → ∃ t, exec (.bootStepTimeout step) s = .next t ∧ t.booted = false
          ∧ t.journal.getLast? = some ⟨step, s.bootCount + 1, 0, false⟩

/-! ### Management -/

/-- R352 to R354, R360, R367 to R369, R383: a reply clears the doorbell and changes no other machine state; a served command on a
context or a queue has its effect and is answered OK; a torn-down context is gone with its queues and translations. That the answer comes
in the command's own step is log entry 43's. -/
def Obligations.ContextCommands : Prop :=
  (∀ (s : State) (c : Cmd) (st : Nat) (ws : List DWord),
    let t := s.answer c st ws
    let ws' := ws.take 4095
    t.mailbox c.mbox = { s.mailbox c.mbox with
        doorbell := false, waiting := none, rsp := BitVec.ofNat 64 (st + ws'.length * 2 ^ 16 + c.tag.toNat * 2 ^ 32) :: ws' }
    ∧ (∀ i, i ≠ c.mbox → t.mailbox i = s.mailbox i) ∧ t.groups = s.groups ∧ t.mem = s.mem ∧ t.contexts = s.contexts
    ∧ t.domains = s.domains ∧ t.keys = s.keys ∧ t.queues = s.queues)
  ∧ ∀ (c : Cmd) (s : State),
    let n := c.bits 0 5 0
    (Served c 2 s → c.op 0 < 64 → c.op 1 % 64 = 0 → s.hasCtx (c.op 0) = false → (s.sriov = true ∨ s.contexts = []) →
      let ws := (List.range 64).map fun i => s.homeWord (c.op 1 + 8 * i)
      descriptorOk ws = true → Obeyed (.ctxCreate c) c s fun t => t.hasCtx (c.op 0) = true ∧ (t.ctx (c.op 0)).desc = ws
        ∧ (t.ctx (c.op 0)).pins = [] ∧ ∀ m, m ≠ c.op 0 → t.ctx m = s.ctx m)
    ∧ (Served c 1 s → c.op 0 < 64 → s.hasCtx (c.op 0) = true → Obeyed (.ctxDestroy c) c s fun t => t = s.teardown (c.op 0)
        ∧ t.hasCtx (c.op 0) = false ∧ (∀ q, q < 512 → t.queue (c.op 0) q = {}) ∧ ∀ e ∈ t.tlb, e.ctx ≠ c.op 0)
    ∧ (∀ fn, (fn = 0 → exec (.functionLevelReset fn) s = .next ((s.contexts.map (·.1)).foldl (fun s x => s.teardown x) s))
        ∧ ∀ x, fn ≠ 0 → s.ctxOfFn fn = some x → exec (.functionLevelReset fn) s = .next (s.teardown x))
    ∧ (Served c 2 s → c.op 0 = n + c.bits 0 21 16 * 2 ^ 16 → s.hasCtx n = true →
      let ws := (s.ctx n).desc.set (c.bits 0 21 16) (BitVec.ofNat 64 (c.op 1))
      descriptorOk ws = true → (5 ≤ c.bits 0 21 16 ∧ c.bits 0 21 16 ≤ 20 ∨ s.holdsBlock n = false) →
      Obeyed (.ctxSet c) c s fun t => t.ctx n = { s.ctx n with desc := ws } ∧ ∀ m, m ≠ n → t.ctx m = s.ctx m)
    ∧ (Served c 1 s → c.op 0 = n + c.bits 0 8 8 * 2 ^ 8 → s.hasCtx n = true → s.holdsBlock n = false →
      Obeyed (.ctxRedundant c) c s fun t => t.ctx n = { s.ctx n with redundant := c.bits 0 8 8 == 1 })
    ∧ (Served c 1 s → s.hasCtx n = true →
      let q := c.bits 0 24 16
      let at_ := (s.ctx n).field 35 51 0 + 64 * q
      q < (s.ctx n).field 36 9 0 →
      (c.op 0 = n + q * 2 ^ 16 → s.Inv → Obeyed (.queueEnable c) c s fun t =>
        ((s.queue n q).slot.isSome = true → t = s)
        ∧ ((s.queue n q).slot = none → (t.queue n q).enabled = true ∧ (t.queue n q).base = s.homeWord at_
            ∧ (t.queue n q).rd = (s.homeWord (at_ + 16)).setWidth 32
            ∧ (t.queue n q).wr = (s.homeWord (at_ + 16)).extractLsb' 32 32))
      ∧ (c.op 0 = n + q * 2 ^ 16 + 1 * 2 ^ 60 → Obeyed (.queueDisable c) c s fun t =>
          (t.queue n q).enabled = false ∧ (t.queue n q).slot = none)
      ∧ (c.op 0 = n + q * 2 ^ 16 + 2 * 2 ^ 60 → Obeyed (.queueClearErr c) c s fun t =>
          t.queue n q = { (s.readQcb n q).queue n q with err := false }))

/-- R159 to R161, R232, R271, R326 to R330, R365 to R370, R373, R376, R390, R391, R394, R397: the other commands and registers of the host.
A signed command is obeyed when its signatures verify and its nonce is new; what a counter or a budget may hold is bounded. What
is the model's own: the writes of FLBO, of IRQCTL and of PBUDGET (log entry 27), the offsets of the MSI-X table and of the AtomicOp enable
(PRESUMED, log entry 73), the parts of a firmware image (`Config.firmwareParts`, log entry 3) and the refusal of an old one (43), that a
CLUSTER_TEST stays in hand (29), and how an aborted slice ends (DEDUCED, log entry 74). -/
def Obligations.OtherCommands : Prop :=
  (∀ (c : Cmd) (s : State),
    let n := c.bits 0 5 0
    (Served c 3 s → c.op 0 = n + c.bits 0 8 8 * 2 ^ 8 → (c.bits 0 8 8 = 1 ∨ c.op 1 % 65536 = 0) →
      let hit (e : TlbEnt) : Bool := e.ctx == n && (c.bits 0 8 8 == 1 || meets e.base e.size (c.op 1) (c.op 2))
      let inside (va : Nat) : Bool := c.bits 0 8 8 == 1 || (decide (c.op 1 ≤ va) && decide (va < c.op 1 + c.op 2))
        || s.tlb.any fun e => hit e && decide (e.base ≤ va) && decide (va < e.base + e.size)
      (s.pendingIn n inside = true → exec (.tlbInval c) s = .next (s.later c none))
      ∧ (s.pendingIn n inside = false → Obeyed (.tlbInval c) c s fun t => t.mem = s.mem
        ∧ (∀ e, e ∈ t.tlb ↔ e ∈ s.tlb
            ∧ ¬(e.ctx = n ∧ (c.bits 0 8 8 = 1 ∨ (e.base < c.op 1 + c.op 2 ∧ c.op 1 < e.base + e.size))))
        ∧ ∀ g w, s.ctxOfBlock (s.group g).block = n → w ∈ (t.group g).gated → inside w.va.toNat = false))
    ∧ (Served c 1 s →
      let g := c.bits 0 14 0
      let e := c.bits 0 23 16
      let sets : Prop := 4 ≤ e ∧ (Tab.get 0 s.frames g).toNat < 4
      let maps : Bool := s.pageMaps (g * 0x1000000) 0x1000000 false
      c.op 0 = g + e * 2 ^ 16 → e < 8 → s.Inv →
      (sets → maps = true → exec (.fgSet c) s = .next (s.answer c 3 []))
      ∧ ((sets → maps = false) → Obeyed (.fgSet c) c s fun t => Tab.get 0 t.frames g = BitVec.ofNat 8 e
        ∧ (Tab.get 0 s.frames g ≠ BitVec.ofNat 8 e → ∀ a, a / 0x1000000 = g → (t.homeByte a).val = 0)))
    ∧ (Served c 9 s →
      let d := c.bits 0 11 0
      let frames := s.addrList (c.op 5) (c.op 6)
      let roots := s.addrList (c.op 7) (c.op 8)
      c.op 0 = d + c.bits 0 16 16 * 2 ^ 16 → (∀ k, k < 8 → ∃ f ∈ frames, 0 < s.frameLines f k) →
      s.domainParts frames roots = true → s.domains.find? d = none → Obeyed (.domainCreate c) c s fun t => (t.domain d).frames = frames
        ∧ (t.domain d).roots = roots ∧ (t.domain d).lines = [] ∧ (t.domain d).key.length = 32
        ∧ ∀ x, x ≠ d → t.domain x = s.domain x)
    ∧ (Served c 5 s →
      let frames := s.addrList (c.op 1) (c.op 2)
      let roots := s.addrList (c.op 3) (c.op 4)
      (s.domains.find? (c.op 0)).isSome = true → s.domainParts frames roots = true →
      Obeyed (.domainGrow c) c s fun t => t.domain (c.op 0) = { s.domain (c.op 0) with
        frames := (s.domain (c.op 0)).frames ++ frames, roots := (s.domain (c.op 0)).roots ++ roots })
    ∧ (Served c 1 s → (s.domains.find? (c.op 0)).isSome = true → (∀ x ∈ s.contexts, x.2.binds (c.op 0) = false) →
      Obeyed (.domainDestroy c) c s fun t => t.domains.find? (c.op 0) = none)
    ∧ (Served c 7 s → (s.domains.find? (c.op 0)).isSome = true → (s.domain (c.op 0)).verify = true → c.op 6 < 2 ^ 32 →
      Obeyed (.trdomSet c) c s fun t => (t.domain (c.op 0)).version = c.op 6 ∧ (t.domain (c.op 0)).reopt = c.op 2
        ∧ (t.domain (c.op 0)).peerTimeout = c.op 3 ∧ (t.domain (c.op 0)).peers.length = c.op 5
        ∧ (t.domain (c.op 0)).freeLines = c.op 1
        ∧ (c.op 1 ≤ s.freeLines (c.op 0) → (t.domain (c.op 0)).lines = (s.domain (c.op 0)).lines))
    ∧ (Served c 3 s → c.op 0 < 2 ^ 24 → 1 ≤ c.op 2 → c.op 2 ≤ 4096 →
      let w (i : Nat) : Nat := (s.homeWord (c.op 1 + 8 * i)).toNat
      (∀ i, i < c.op 2 → w (2 * i + 1) < 2 ^ 32) → Obeyed (.sliceTable c) c s fun t =>
        (t.gang (c.op 0)).slices = (List.range (c.op 2)).map fun i =>
          ⟨BitVec.ofNat 32 (w (2 * i)), w (2 * i) / 2 ^ 32, w (2 * i + 1)⟩)
    ∧ (Served c 2 s → c.op 0 < 2 ^ 24 → c.op 1 < 2 ^ 32 →
      let u := s.dropSlice (c.op 0) (c.op 1)
      let x := u.gang (c.op 0)
      (∀ z, z ∈ x.slices ↔ z ∈ (s.gang (c.op 0)).slices ∧ z.num.toNat ≠ c.op 1) ∧ x.cur = (s.gang (c.op 0)).cur
      ∧ (x.aborting = false → (s.mailbox c.mbox).waiting ≠ some (c, none) →
        ((∀ z, x.cur = some z → z.num.toNat ≠ c.op 1) → exec (.sliceAbort c) s = .next (u.answer c 0 []))
        ∧ ∀ z, x.cur = some z → z.num.toNat = c.op 1 →
          (x.begun = false → exec (.sliceAbort c) s = .next ((u.setGang (c.op 0) x.idle).answer c 0 []))
          ∧ (x.begun = true → x.saved.isSome = true → ∃ t : State,
              exec (.sliceAbort c) s = .next (if (t.gang (c.op 0)).aborting then t.later c none else t.answer c 0 [])
              ∧ (t.gang (c.op 0)).cur = none ∧ (t.gang (c.op 0)).begun = false ∧ (t.gang (c.op 0)).sentReady = false
              ∧ ((∀ b ∈ s.blocks, b.2.st = .resident → s.ctxOfBlock b.1 ∉ s.gangCtxs (c.op 0)) →
                  (∀ o ∈ s.ops, o.2.st = .started → s.ctxOfBlock o.2.block ∉ s.gangCtxs (c.op 0)) → (t.gang (c.op 0)).aborting = false)))
      ∧ ((s.mailbox c.mbox).waiting = some (c, none) → exec (.sliceAbort c) s
          = .next (if (s.gang (c.op 0)).aborting then s.later c none else s.answer c 0 []))))
  ∧ (∀ (c : Cmd) (s : State), s.taken c = true →
    let sent (n : Nat) : Prop := c.nopw = n ∧ c.ops.length = n
    let i := c.bits 0 4 0
    let ml : Bool := c.bits 0 8 8 == 1
    let v := c.bits 0 15 8
    (sent 3 → c.op 0 = i + c.bits 0 8 8 * 2 ^ 8 + c.bits 0 18 16 * 2 ^ 16 → c.op 2 = (if ml then 1952 else 32) →
      s.keys.find? i = none → SignedObeyed (.keyAdd c) c 0x40 s fun t => ∃ e, t.keys.find? i = some e ∧ e.ml = ml
        ∧ e.key = s.physBytes (c.op 1) (c.op 2) ∧ e.kernel = (c.op 0).testBit 16 ∧ e.firmware = (c.op 0).testBit 17
        ∧ e.admin = (c.op 0).testBit 18)
    ∧ (∀ e, sent 1 → s.keys.find? (c.op 0) = some e → e.fused = false →
      SignedObeyed (.keyRemove c) c 0x41 s fun t => t.keys.find? (c.op 0) = none)
    ∧ (sent 1 → c.op 0 = c.bits 0 0 0 + v * 2 ^ 8 →
      (c.bits 0 0 0 = 1 → v ≤ 64 → s.firmwareCounter < v → SignedObeyed (.counterSet c) c 0x42 s fun t =>
        t.firmwareCounter = v ∧ t.kernelCounter = s.kernelCounter)
      ∧ (c.bits 0 0 0 = 0 → v ≤ 128 → s.kernelCounter < v → SignedObeyed (.counterSet c) c 0x42 s fun t =>
        t.kernelCounter = v ∧ t.firmwareCounter = s.firmwareCounter)))
  ∧ (∀ (c : Cmd) (s : State),
    let m := c.op 0
    (Served c 2 s →
      let image := Config.firmwareParts (s.physBytes (c.op 0) (c.op 1))
      let ver := image.2.2
      ∃ t : State, t.fwSlot = !s.fwSlot ∧ (if t.fwSlot then t.fwVersions.2 else t.fwVersions.1) = ver
        ∧ exec (.fwLoad c) s = .next (if sigOk s.keys (·.firmware) image.1 image.2.1 = false then s.answer c 5 []
            else if ver < s.firmwareCounter then s.answer c 7 [] else t.answer c 0 []))
    ∧ (Served c 1 s → m < 64 → s.hasCtx m = true →
      (Obeyed (.dbgAttach c) c s fun t => t.ctx m = { s.ctx m with debugger := true })
      ∧ Obeyed (.dbgDetach c) c s fun t => t.ctx m = { s.ctx m with debugger := false }
          ∧ ∀ g, (s.group g).wait = .halt → s.ctxOf g = m → t.group g = { s.group g with wait := .none })
    ∧ (Served c 2 s → m < 64 → s.hasCtx m = true →
      (∀ g x, c.op 1 < 2 ^ 40 → List.find? (fun (y : Nat × Group) => y.2.wait == .halt && y.2.grpid == c.bits 1 39 32
          && !y.2.retired && (s.block y.2.block).lin == c.bits 1 31 0 && s.ctxOfBlock y.2.block == m) s.groups = some (g, x) →
        Obeyed (.dbgResume c) c s fun t => t.group g = { x with wait := .none })
      ∧ (c.op 1 < 2 ^ 32 → exec (.sideRead c) s = .next (match s.sideRecord m (c.op 1) with
          | none => s.answer c 2 []
          | some ws => s.answer c 0 ws)))
    ∧ (Served c 1 s → m = c.bits 0 1 0 + c.bits 0 14 8 * 2 ^ 8 → Obeyed (.eventRoute c) c s fun t =>
        t.routes.find? (c.bits 0 1 0) = some (c.bits 0 14 8))
    ∧ (∀ outcome, Served c 1 s → m < 128 →
      let empty : Prop := (s.cluster m).underTest = true ∧ s.blocksOnCluster m = []
      ((s.cluster m).inService = true → empty → exec (.clusterTest c outcome) s
        = .next ((s.endTest m outcome).2.answer c 0 [BitVec.ofNat 64 (s.endTest m outcome).1]))
      ∧ ((s.cluster m).inService = true → ¬empty → ∃ t, exec (.clusterTest c outcome) s = .next t
          ∧ (t.mailbox c.mbox).doorbell = true ∧ (t.mailbox c.mbox).waiting = some (c, some outcome))
      ∧ ((s.cluster m).inService = false → exec (.clusterTest c outcome) s = .next (s.answer c 0 [2])))
    ∧ ∀ code, s.taken c = true → reservedCode code = true →
        exec (.reservedCommand code c) s = .next (s.answer c 1 []))
  ∧ ∀ (v : BitVec 64) (s : State),
    (v &&& 0xFFFF000000000000 = 0 → ∃ t, exec (.pbudgetWrite v) s = .next t
      ∧ t.pbudget.toNat % 2 ^ 32 = max 800 (min (if Config.isModule then 2200 else 1950) (v.toNat % 65536))
      ∧ t.pbudget.extractLsb' 32 16 = s.pbudget.extractLsb' 32 16 ∧ t.groups = s.groups)
    ∧ (v &&& 0xFFFF000000000000 ≠ 0 → exec (.pbudgetWrite v) s = .next s)
    ∧ (∀ i, i < 16 → ∃ t, exec (.registerWrite (0x10000 * i + 8) v) s = .next t
        ∧ t.mailbox i = { s.mailbox i with irqctl := v &&& 0xFF } ∧ t.groups = s.groups)
    ∧ (∀ i, i < 24 → ∃ t, exec (.registerWrite (0x100000 + 64 * i) v) s = .next t
        ∧ t.port i = { s.port i with flbo := flboOf v } ∧ t.groups = s.groups)
    ∧ (v.toNat % 2 ^ 16 ≠ 0 → v.toNat / 2 ^ 20 % 2 ^ 8 ≠ 0 → v.toNat / 2 ^ 28 % 2 ^ 4 = 0 → v.toNat / 2 ^ 32 ≠ 0 → flboOf v = v)
    ∧ (∀ fn vec, fn ≤ 64 → vec < 64 → ∃ t w, exec (.registerWrite (0x10000000 + 0x10000 * fn + 0x1000 + 16 * vec + 8) v) s = .next t
        ∧ t.msix.find? (128 * fn + vec) = some w ∧ w.data = v.setWidth 32 ∧ w.masked = v.getLsbD 32)
    ∧ (∀ fn, fn ≤ 64 → ∃ t, exec (.registerWrite (0x20000000 + 0x1000 * fn + 0x28) v) s = .next t
        ∧ (fn ∈ t.atomicOps ↔ v.getLsbD 6 = true) ∧ ∀ f, f ≠ fn → (f ∈ t.atomicOps ↔ f ∈ s.atomicOps))
    ∧ (∀ fn vec, ∃ t w, exec (.msiXUnmask fn vec) s = .next t ∧ t.msix.find? (128 * fn + vec) = some w ∧ w.masked = false
        ∧ w.pending = false ∧ w.sent = (Tab.get {} s.msix (128 * fn + vec)).sent
            + if (Tab.get {} s.msix (128 * fn + vec)).pending then 1 else 0)
    ∧ (∀ on, exec (.srIovEnable on) s = .next { s with sriov := on })
    ∧ ∀ step, ∃ t, exec (.journalClear step) s = .next t ∧ ∀ j, j ∈ t.journal ↔ j ∈ s.journal ∧ j.step ≠ step

/-! ### Fabric -/

/-- R229, R232, R371 to R376: a port accepts packets in sequence alone, and answers each; acknowledgements free packets,
refusals back off, and silence on the last route that is left makes a peer unreachable; the switch merges pairs and flushes sums; a
gang's slice begins when READY has come from every other member. What
is the model's own: a full receive buffer (log entry 28), routes and the merge table's entry whose slot is needed (72), acknowledgements
(20), and when a gang takes up and begins a slice (23, 41). -/
def Obligations.FabricAndGangs : Prop :=
  (∀ (i : Nat) (p : Packet) (s : State),
    let l := s.vl i p.vl
    let waits : Bool := match l.answers.getLast? with | some (n, q, _) => n && q == l.rx | none => false
    let held : Bool := s.jobHeld p.job && decide (p.type ≤ 8)
    let tells (a : Bool × BitVec 32 × Nat) : State := s.setVl i p.vl { l with answers := l.answers ++ [a] }
    (p.passes = true → p.seq ≠ l.rx →
      exec (.packetReceive i p) s = .next (if (l.rx - p.seq).toNat < 2 ^ 31 then tells (false, l.rx - 1, 0)
        else if waits then s else tells (true, l.rx, 2)))
    ∧ (p.passes = false → exec (.packetReceive i p) s
        = .next (if waits = true ∧ p.seq ≠ l.rx then s else tells (true, l.rx, 0)))
    ∧ (p.passes = true → p.seq = l.rx → held = true → exec (.packetReceive i p) s = .next (tells (true, l.rx, 3)))
    ∧ (p.passes = true → p.seq = l.rx → held = false → ∃ t, exec (.packetReceive i p) s = .next t ∧
        if Config.freeNat s.free % 2 = 1 then
          (t.vl i p.vl).rx = l.rx ∧ (t.vl i p.vl).answers = l.answers ++ [(true, l.rx, 1)] ∧ t.mem = s.mem
        else (t.vl i p.vl).rx = l.rx + 1 ∧ (t.vl i p.vl).answers = l.answers ++ [(false, p.seq, 0)]))
  ∧ (∀ (i v : Nat) (seq : BitVec 32) (s : State),
    let l := s.vl i v
    let freed (k : BitVec 32) : Bool := decide ((seq - k).toNat < 2 ^ 31)
    let peer := s.vlPeer i v
    let lastWay (d : Nat) : Prop := ∀ j ∈ (match Config.routes d with | [] => [0] | is => is), j ≠ i → d ∈ (s.port j).lost
    let waits (o d : Nat) : Prop := (s.op o).kind.fabric = some d ∧ ((s.op o).sent ≠ [] ∨ (s.op o).pairs ≠ [])
    let through (d : Nat) : Prop := d = peer ∨ (∃ w, ∃ k ∈ (s.vl i w).unacked, k.dst = d) ∨ ∃ o, waits o d ∧ s.portOf d = i
    let lost (t : State) : Prop := ∀ d, through d →
      d ∈ (t.port i).lost ∧ (∀ w, ∀ k ∈ (t.vl i w).unacked, k.dst ≠ d)
      ∧ (lastWay d → d ∈ t.unreachable ∧ ∀ o, waits o d →
          (t.op o).fault.isSome = true ∧ (t.op o).sent = [] ∧ (t.op o).pairs = [])
    ((∃ k ∈ l.unacked, freed k.seq = true) → ∃ t, exec (.acknowledgementReceive i v seq) s = .next t
      ∧ (t.vl i v).unacked = l.unacked.filter (fun k => !freed k.seq) ∧ (t.vl i v).naks = 0
      ∧ ∀ o, (t.op o).sent = (s.op o).sent.filter fun x => !(x.1 == i && x.2.1 == v && freed x.2.2.1))
    ∧ (∀ reason, (∃ k ∈ l.unacked, k.seq = seq) →
      let n := l.counted + if reason = 3 then 0 else 1
      ∃ t, exec (.negativeAcknowledgement i v seq reason) s = .next t
        ∧ (n < (s.port i).limit → t.vl i v = { l with nakSeq := seq, backoff := true, counted := n
                                                      naks := if l.nakSeq = seq then l.naks + 1 else 1 })
        ∧ ((s.port i).limit ≤ n → lost t))
    ∧ (l.unacked ≠ [] → ∃ t, exec (.linkAckTimeout i v) s = .next t ∧ lost t)
    ∧ (∃ t, exec (.replayBackoffExpiry i v) s = .next t ∧ t.vl i v = { l with backoff := false } ∧ t.mem = s.mem)
    ∧ ∃ t, exec (.portRetrain i) s = .next t ∧ t.port i = { s.port i with lanes := 4 } ∧ t.mem = s.mem)
  ∧ (∀ (p : Spair) (s : State),
    let at_ := s.merge.findIdx? fun e => e.matches p && (e.add p).isSome
    let room : Prop := (s.mergeTable p.dst).length < 65536
    let mine (e : MergeEnt) : Bool := e.contribs.any fun c => p.contribs.any fun d => c.1 == d.1 && c.2.1 == d.2.1
    let aside : MergeEnt := { MergeEnt.of p with overflow := true }
    (p.last = false → p.overflow = true → exec (.switchMerge p) s = .next (s.sendSum aside))
    ∧ (p.last = false → p.overflow = false →
      (∀ i e, at_ = some i → s.merge[i]? = some e → ∃ e', exec (.switchMerge p) s = .next { s with merge := s.merge.set i e' }
        ∧ e'.sum = e.sum + p.sum ∧ e'.contribs = p.contribs.foldl addContrib e.contribs ∧ e'.contribs.length ≤ 4 ∧ e'.dst = e.dst ∧ e'.job = e.job ∧ e'.win = e.win ∧ e'.index = e.index ∧ e'.wexp = e.wexp)
      ∧ (at_ = none → room → exec (.switchMerge p) s = .next { s with merge := s.merge ++ [MergeEnt.of p] })
      ∧ (at_ = none → ¬room → exec (.switchMerge p) s = .next ((s.sendSum aside).flushOldest p.dst)))
    ∧ (p.last = true → ∀ t, exec (.switchMerge { p with last := false }) s = .next t →
        exec (.switchMerge p) s = .next (t.flushSums mine) ∧ (t.flushSums mine).merge = t.merge.filter fun e => !mine e)
    ∧ (∀ e, e.dst ≠ s.pkg → s.sendSum e = { s with mergeOut := s.mergeOut ++ [e] })
    ∧ ∀ i e, s.merge[i]? = some e → exec (.mergeFlushInterval i) s
        = .next ({ s with merge := s.merge.eraseIdx i }.sendSum e))
  ∧ ∀ (g : Nat) (s : State),
    let x := s.gang g
    let begins (ready : List (Nat × BitVec 32)) : Bool := x.begun || (x.sentReady && x.cur.any fun z => allHeard g ready z.num)
    let resident : Prop := ∃ y ∈ s.blocks, y.2.st = .resident ∧ ((s.ctx (s.ctxOfBlock y.1)).word 34).getLsbD 63 = true
    let takes (t : State) (ready : List (Nat × BitVec 32)) : Prop := ∀ z rest, x.slices = z :: rest →
      (t.gang g).cur = some z ∧ (t.gang g).slices = rest ∧ (t.gang g).sentReady = true ∧ (t.gang g).due = false
        ∧ (t.gang g).begun = allHeard g ready z.num
    x.aborting = false →
    (∀ num m, ∃ t, exec (.gangReady g num m) s = .next t ∧ (t.gang g).ready = (m, BitVec.ofNat 32 num) :: x.ready ∧ t.mem = s.mem
      ∧ (s.gangDue g = false → (t.gang g).begun = begins ((m, BitVec.ofNat 32 num) :: x.ready))
      ∧ (s.gangDue g = true → takes t ((m, BitVec.ofNat 32 num) :: x.ready)))
    ∧ (∀ num m, ∃ t, exec (.gangRunning g num m) s = .next t ∧ (t.gang g).running = (m, BitVec.ofNat 32 num) :: x.running
      ∧ t.mem = s.mem ∧ (s.gangDue g = false → (t.gang g).begun = begins x.ready) ∧ (s.gangDue g = true → takes t x.ready))
    ∧ (resident → ∃ t, exec (.sliceEnd g) s = .next t ∧ (t.gang g).due = true
        ∧ (∀ k, (t.gang k).begun = false ∧ (t.gang k).cur = none) ∧ t.mem = s.mem)
    ∧ (¬resident → ∃ t, exec (.sliceEnd g) s = .next t ∧ takes t x.ready ∧ (∀ k, k ≠ g → (t.gang k).begun = false)
        ∧ (x.slices = [] → (t.gang g).cur = none ∧ (t.gang g).begun = false ∧ (t.gang g).due = false))
    ∧ ∀ z, x.cur = some z → x.sentReady = true → exec (.gangSliceTimeout g) s
        = .next (if allHeard g x.ready z.num && allHeard g x.running z.num then s else s.report 1 "gang slice timeout")

/-! ### What each of these completes with -/

/-- R138, R141, R237 to R240, R309, R318 to R321, R324, R168: BRX whose targets are base words of the body, END that has no operation
to wait for or no fault to deliver, CHCFG and YIELDC on an idle channel whose joins deliver no fault, WMARK, TRY outside a region,
COMMIT with no abort due, and TSTAT complete and go on; ABORT takes its lanes out of the region, and SPECULATION_CONFLICT the aborts
that are due; RELEASE_COMPLETE and STORE_ENTERS_VIEW always complete, and leave every group's thread alone. -/
def Obligations.BranchEndAndChannelsComplete : Prop :=
  (∀ s : State, s.Outside →
    let s' := s.flush s.cur
    let b := s.grp.block
    let idle (c : Nat) : Prop := (s.chan b c).queue = [] ∧ ∀ o ∈ s.chanOps b c, (s.op o).grp = s.cur → (s.op o).fault = none
    (∀ f : BrxOp,
      let act := s.th.act f.guard
      let tgt (l : Nat) : Nat := (s.th.regs.vec f.a.toNat l).toNat
      act ≠ 0 →
      (∀ l, l < 32 → act.getLsbD l = true → tgt l % 8 = 0 ∧ (s.kernelOf s.grp).inBody s.th.body (tgt l / 8) = true) →
      exec (.brx f) s = .next (s.moveTo (s.th.branchMany act (lanesByValue act tgt) (s.th.pc + 16) (s.th.target f.join))))
    ∧ (∀ f : GuardOp,
      let act := s.th.act f.guard
      let ops := s.opsOf s.cur
      let after : Thread := { s.th.endLanes act with pc := s.th.pc + ilen f.ext }
      act ≠ 0 →
      (after.spent = false ∨ ops = [] → exec (.endOp f) s = .next (s'.moveTo after))
      ∧ ((∀ o ∈ ops, o.2.st = .finished ∧ (s.op o.1).fault = none) →
          ∃ t, exec (.endOp f) s = .next t ∧ t.th = after ∧ t.mem = s.mem))
    ∧ (s.th.act Guard.always ≠ 0 →
      (∀ f : ChcfgOp,
        let base := (s.th.regs.scal f.a.toNat).toNat
        let len := (s.th.regs.scal f.b.toNat).toNat % 2 ^ 32
        idle f.ch.toNat → s.chcfgFault f.sp base len = none →
        ∃ t, exec (.chcfg f) s = .next t ∧ t.th = { s.th with pc := s.th.pc + ilen f.ext } ∧ t.mem = s.mem
          ∧ t.chan b f.ch.toNat = { space := f.sp, base := base, len := len, wexp := f.w.toInt })
      ∧ (∀ f : WmarkOp, ∃ t r, exec (.wmark f) s = .next t ∧ t.mem = s.mem
          ∧ t.th = { s.th with pc := s.th.pc + ilen f.ext, regs := r }
          ∧ WroteScal s.th.regs r f.d.toNat (s.chan b f.ch.toNat).status)
      ∧ ∀ f : YieldcOp, idle f.ch.toNat →
          ∃ t, exec (.yieldc f) s = .next t ∧ t.mem = s.mem
            ∧ t.th = { s.th with pc := 8 * ((s.th.pc / 8 : Nat) + 2 + f.target.toInt).toNat }))
  ∧ (∀ s : State, s.th.act Guard.always ≠ 0 →
    let x := (s.flush s.cur).grp
    (∀ f : TryOp, s.grp.region.depth = 0 → ∃ t, exec (.tryOp f) s = .next t ∧ t.grp.region.depth = 1 ∧ t.mem = s.mem
        ∧ t.th = { s.th with pc := s.th.pc + 16, stack := t.th.stack })
    ∧ (∀ f : PlainOp, s.grp.region.depth ≠ 1 ∨ x.conflictDue = false ∧ x.preemptDue = false →
        ∃ t, exec (.commit f) s = .next t ∧ t.mem = s.mem ∧ t.th = { s.th with pc := s.th.pc + ilen f.ext, stack := t.th.stack })
    ∧ (∀ f : AbortOp, s.th.act f.guard &&& s.grp.rm ≠ 0 → s.grp.region.mode = false →
        ∃ t, exec (.abort f) s = .next t ∧ t.mem = s.mem ∧ t.grp.region.rm = s.grp.region.rm &&& ~~~(s.th.act f.guard &&& s.grp.rm))
    ∧ ∀ f : TstatOp, ∃ t, exec (.tstat f) s = .next t ∧ t.mem = s.mem
        ∧ t.th = { s.th with pc := s.th.pc + ilen f.ext, regs := t.th.regs })
  ∧ (∀ (s : State) (g : Nat), (s.group g).atBoundary = true → (s.group g).conflictDue = true → ∃ t,
      exec (.speculationConflict g) s = .next t ∧ (t.group g).conflict = 0 ∧ (t.group g).ue = 0 ∧ ∀ h, h ≠ g → t.group h = s.group h)
  ∧ (∀ (s : State) (c : Nat), ∃ t, exec (.releaseComplete c) s = .next t ∧ (∀ g, (t.group g).th = (s.group g).th)
      ∧ ((s.core c).rels = [] → t = s)
      ∧ ∀ m rest r, (s.core c).rels = m :: rest → s.rels.find? m = some r →
          t.rels.find? m = some { r with todo := [], done := true } ∧ ∃ k, (t.core c).rels = rest.drop k)
  ∧ ∀ (s : State) (g : Nat), ∃ t, exec (.storeEntersView g) s = .next t ∧ t.mem = s.mem
      ∧ (∀ k, (t.group k).th = (s.group k).th) ∧ (t.group g).gated = (s.group g).gated.tail
      ∧ ((s.group g).gated = [] → t = s)
end

