-- ==== Sys2Proof/Laws/Tab.lean ====
section
/-! SUPPORT. Laws of sparse tables and of the canonical byte memory: read after write, a write leaves other keys alone, and
every operation keeps the canonical form. -/

namespace Sys2Proof

open Tab

variable {α : Type}

@[simp] theorem Tab.find?_put_same (t : Tab α) (k : Nat) (v : α) : (t.put k v).find? k = some v := by
  induction t with
  | nil => simp [Tab.put, Tab.find?]
  | cons h t ih =>
    obtain ⟨j, w⟩ := h
    simp only [Tab.put]
    split
    · simp [Tab.find?]
    · split
      · simp [Tab.find?]
      · rename_i h2
        simp [Tab.find?, Ne.symm h2, ih]

theorem Tab.find?_mapVals (t : Tab α) (f : Nat → α → α) (k : Nat) : (t.mapVals f).find? k = (t.find? k).map (f k) := by
  induction t with
  | nil => rfl
  | cons x t ih =>
    obtain ⟨j, v⟩ := x
    simp only [Tab.mapVals, List.map_cons, Tab.find?] at ih ⊢
    split
    · rename_i h; simp_all
    · exact ih

theorem Tab.find?_put_ne (t : Tab α) {k j : Nat} (v : α) (h : j ≠ k) : (t.put k v).find? j = t.find? j := by
  induction t with
  | nil => simp [Tab.put, Tab.find?, Ne.symm h]
  | cons p t ih =>
    obtain ⟨i, w⟩ := p
    simp only [Tab.put]
    split
    · simp [Tab.find?, Ne.symm h]
    · split
      · rename_i h2; subst h2; simp [Tab.find?, Ne.symm h]
      · simp [Tab.find?, ih]

theorem Tab.find?_put (t : Tab α) (k j : Nat) (v : α) : (t.put k v).find? j = if j = k then some v else t.find? j := by
  by_cases h : j = k
  · subst h; simp
  · simp [h, Tab.find?_put_ne t v h]

@[simp] theorem Tab.get_put_same (d : α) (t : Tab α) (k : Nat) (v : α) : Tab.get d (t.put k v) k = v := by
  simp [Tab.get]

theorem Tab.get_put (d : α) (t : Tab α) (k j : Nat) (v : α) :
    Tab.get d (t.put k v) j = if j = k then v else Tab.get d t j := by
  unfold Tab.get
  rw [Tab.find?_put]
  split <;> rfl

@[simp] theorem Tab.put_put (t : Tab α) (k : Nat) (v w : α) : (t.put k v).put k w = t.put k w := by
  induction t with
  | nil => simp [Tab.put]
  | cons p t ih =>
    obtain ⟨i, x⟩ := p
    simp only [Tab.put]
    split
    · simp [Tab.put]
    · split
      · simp [Tab.put]
      · rename_i h1 h2; simp [Tab.put, h1, h2, ih]

/-! ### Rising keys -/

/-- Every key of a table is above a bound. -/
def Tab.above (b : Nat) (t : Tab α) : Prop := ∀ p ∈ t, b < p.1

theorem Tab.rising_cons {k : Nat} {v : α} {t : Tab α} :
    Tab.rising ((k, v) :: t) = true ↔ Tab.above k t ∧ Tab.rising t = true := by
  induction t generalizing k v with
  | nil => simp [Tab.rising, Tab.above]
  | cons p t ih =>
    obtain ⟨j, w⟩ := p
    simp only [Tab.rising, Bool.and_eq_true, decide_eq_true_eq]
    constructor
    · rintro ⟨h1, h2⟩
      refine ⟨?_, h2⟩
      intro q hq
      rcases List.mem_cons.1 hq with rfl | hq
      · exact h1
      · exact Nat.lt_trans h1 ((ih.1 h2).1 q hq)
    · rintro ⟨h1, h2⟩
      exact ⟨h1 _ (List.mem_cons_self ..), h2⟩

theorem Tab.above_put {b k : Nat} {v : α} {t : Tab α} (h : Tab.above b t) (hk : b < k) : Tab.above b (t.put k v) := by
  induction t with
  | nil => intro q hq; simp [Tab.put] at hq; simp [hq, hk]
  | cons p t ih =>
    obtain ⟨j, w⟩ := p
    have ht : Tab.above b t := fun q hq => h q (List.mem_cons_of_mem _ hq)
    have hj : b < j := h (j, w) (List.mem_cons_self ..)
    simp only [Tab.put]
    split
    · intro q hq
      rcases List.mem_cons.1 hq with rfl | hq
      · exact hk
      · exact h q hq
    · split
      · intro q hq
        rcases List.mem_cons.1 hq with rfl | hq
        · exact hk
        · exact ht q hq
      · intro q hq
        rcases List.mem_cons.1 hq with rfl | hq
        · exact hj
        · exact ih ht q hq

theorem Tab.rising_put {k : Nat} {v : α} {t : Tab α} (h : Tab.rising t = true) : Tab.rising (t.put k v) = true := by
  induction t with
  | nil => simp [Tab.put, Tab.rising]
  | cons p t ih =>
    obtain ⟨j, w⟩ := p
    obtain ⟨ha, ht⟩ := Tab.rising_cons.1 h
    simp only [Tab.put]
    split
    · rename_i h1
      refine Tab.rising_cons.2 ⟨?_, h⟩
      intro q hq
      rcases List.mem_cons.1 hq with rfl | hq
      · exact h1
      · exact Nat.lt_trans h1 (ha q hq)
    · split
      · rename_i h2; subst h2; exact Tab.rising_cons.2 ⟨ha, ht⟩
      · rename_i h1 h2
        exact Tab.rising_cons.2 ⟨Tab.above_put ha (by omega), ih ht⟩

theorem Tab.mem_erase {k : Nat} {t : Tab α} {q : Nat × α} (hq : q ∈ t.erase k) : q ∈ t := by
  induction t with
  | nil => simp [Tab.erase] at hq
  | cons p t ih =>
    obtain ⟨j, w⟩ := p
    simp only [Tab.erase] at hq
    split at hq
    · exact List.mem_cons_of_mem _ hq
    · rcases List.mem_cons.1 hq with rfl | hq
      · exact List.mem_cons_self ..
      · exact List.mem_cons_of_mem _ (ih hq)

theorem Tab.rising_erase {k : Nat} {t : Tab α} (h : Tab.rising t = true) : Tab.rising (t.erase k) = true := by
  induction t with
  | nil => simpa [Tab.erase] using h
  | cons p t ih =>
    obtain ⟨j, w⟩ := p
    obtain ⟨ha, ht⟩ := Tab.rising_cons.1 h
    simp only [Tab.erase]
    split
    · exact ht
    · exact Tab.rising_cons.2 ⟨fun q hq => ha q (Tab.mem_erase hq), ih ht⟩

theorem Tab.rising_filter {p : Nat × α → Bool} {t : Tab α} (h : Tab.rising t = true) :
    Tab.rising (List.filter p t) = true := by
  induction t with
  | nil => simpa using h
  | cons q t ih =>
    obtain ⟨j, w⟩ := q
    obtain ⟨ha, ht⟩ := Tab.rising_cons.1 h
    rw [List.filter_cons]
    split
    · exact Tab.rising_cons.2 ⟨fun x hx => ha x (List.mem_filter.1 hx).1, ih ht⟩
    · exact ih ht

theorem Tab.mem_put {k : Nat} {v : α} {t : Tab α} {q : Nat × α} (hq : q ∈ t.put k v) : q = (k, v) ∨ q ∈ t := by
  induction t with
  | nil => left; simpa [Tab.put] using hq
  | cons p t ih =>
    obtain ⟨j, w⟩ := p
    simp only [Tab.put] at hq
    split at hq
    · rcases List.mem_cons.1 hq with rfl | hq
      · exact .inl rfl
      · exact .inr hq
    · split at hq
      · rcases List.mem_cons.1 hq with rfl | hq
        · exact .inl rfl
        · exact .inr (List.mem_cons_of_mem _ hq)
      · rcases List.mem_cons.1 hq with rfl | hq
        · exact .inr (List.mem_cons_self ..)
        · rcases ih hq with h | h
          · exact .inl h
          · exact .inr (List.mem_cons_of_mem _ h)

theorem Tab.find?_above {k : Nat} {t : Tab α} (h : Tab.above k t) : t.find? k = none := by
  induction t with
  | nil => rfl
  | cons p t ih =>
    obtain ⟨j, w⟩ := p
    have : j ≠ k := Nat.ne_of_gt (h (j, w) (List.mem_cons_self ..))
    simp [Tab.find?, this, ih fun q hq => h q (List.mem_cons_of_mem _ hq)]

theorem Tab.find?_erase {t : Tab α} (h : Tab.rising t = true) (k j : Nat) :
    (t.erase k).find? j = if j = k then none else t.find? j := by
  induction t with
  | nil => simp [Tab.erase, Tab.find?]
  | cons p t ih =>
    obtain ⟨i, w⟩ := p
    obtain ⟨ha, ht⟩ := Tab.rising_cons.1 h
    simp only [Tab.erase]
    split
    · rename_i hk; subst hk
      by_cases hj : j = k
      · subst hj; simp [Tab.find?_above ha]
      · simp [hj, Tab.find?, Ne.symm hj]
    · rename_i hk
      by_cases hi : i = j
      · subst hi; simp [Tab.find?, Ne.symm hk]
      · simp [Tab.find?, hi, ih ht]

/-! ### The memory -/

/-- A read after a write: the byte written at its address, and every other byte as before. -/
theorem Cells.get_set {m : Cells} (h : Memory.wf m = true) (a b : Nat) (v : Byte) :
    (m.set a v).get b = if b = a then v else m.get b := by
  have hr : Tab.rising m = true := by
    simp only [Memory.wf, Bool.and_eq_true] at h; exact h.1
  unfold Cells.set Cells.get Tab.get
  split
  · rename_i hv; rw [Tab.find?_erase hr]; split <;> simp [hv]
  · rw [Tab.find?_put]; split <;> rfl

theorem Memory.wf_nil : Memory.wf [] = true := rfl

/-- Writing a byte keeps the canonical form. -/
theorem Memory.wf_set {m : Cells} (a : Nat) (v : Byte) (h : Memory.wf m = true) : Memory.wf (m.set a v) = true := by
  simp only [Memory.wf, Bool.and_eq_true, List.all_eq_true] at h ⊢
  obtain ⟨hr, hz⟩ := h
  unfold Cells.set
  split
  · exact ⟨Tab.rising_erase hr, fun q hq => hz q (Tab.mem_erase hq)⟩
  · rename_i hv
    refine ⟨Tab.rising_put hr, fun q hq => ?_⟩
    rcases Tab.mem_put hq with rfl | hq
    · simpa using hv
    · exact hz q hq

/-- Removing cells keeps the canonical form. -/
theorem Memory.wf_filter {m : Cells} (p : Host.Cell → Bool) (h : Memory.wf m = true) :
    Memory.wf (List.filter p m) = true := by
  simp only [Memory.wf, Bool.and_eq_true, List.all_eq_true] at h ⊢
  exact ⟨Tab.rising_filter h.1, fun q hq => h.2 q (List.mem_filter.1 hq).1⟩

end Sys2Proof
end

