-- ==== Sys2Proof/Laws/Mem.lean ====
section
/-! SUPPORT. Laws of the home memory: the operations that write it keep its canonical form, and reads after writes. -/

namespace Sys2Proof.Machine

theorem wf_putBytes {m : Cells} (a : Nat) (bs : List MByte) (h : Memory.wf m = true) :
    Memory.wf (putBytes m a bs) = true := by
  induction bs generalizing m a with
  | nil => simpa [putBytes] using h
  | cons b t ih => exact ih (a + 1) (Memory.wf_set a b.val h)

theorem get_putBytes {m : Cells} (a : Nat) (bs : List MByte) (h : Memory.wf m = true) (b : Nat) :
    (putBytes m a bs).get b = if a ≤ b ∧ b < a + bs.length then ((bs[b - a]?).getD ⟨0, false⟩).val else m.get b := by
  induction bs generalizing m a with
  | nil =>
    have : ¬(a ≤ b ∧ b < a) := by omega
    simp [putBytes, this]
  | cons x t ih =>
    rw [putBytes, ih (a + 1) (Memory.wf_set a x.val h), Cells.get_set h]
    by_cases hb : b = a
    · subst hb
      have h1 : ¬(b + 1 ≤ b ∧ b < b + 1 + t.length) := by omega
      have h2 : b ≤ b ∧ b < b + (x :: t).length := by simp
      rw [if_neg h1, if_pos rfl, if_pos h2]
      simp
    · rw [if_neg hb]
      by_cases hc : a + 1 ≤ b ∧ b < a + 1 + t.length
      · have h2 : a ≤ b ∧ b < a + (x :: t).length := by simp only [List.length_cons]; omega
        obtain ⟨k, hk⟩ : ∃ k, b - a = k + 1 := ⟨b - a - 1, by omega⟩
        have hk' : b - (a + 1) = k := by omega
        rw [if_pos hc, if_pos h2, hk, hk', List.getElem?_cons_succ]
      · have h2 : ¬(a ≤ b ∧ b < a + (x :: t).length) := by simp only [List.length_cons]; omega
        rw [if_neg hc, if_neg h2]

/-- A home write keeps the canonical form. -/
theorem State.homeWrite_wf (s : State) (a : Nat) (bs : List MByte) (h : Memory.wf s.mem = true) :
    Memory.wf (s.homeWrite a bs).mem = true := wf_putBytes a bs h

/-- A home write changes the bytes that it names and no other. -/
theorem State.homeWrite_get (s : State) (a : Nat) (bs : List MByte) (h : Memory.wf s.mem = true) (b : Nat) :
    (s.homeWrite a bs).mem.get b =
      if a ≤ b ∧ b < a + bs.length then ((bs[b - a]?).getD ⟨0, false⟩).val else s.mem.get b := get_putBytes a bs h b

/-- Emptying a range of locations keeps the canonical form. -/
theorem State.zeroRange_wf (s : State) (a n : Nat) (h : Memory.wf s.mem = true) :
    Memory.wf (s.zeroRange a n).mem = true := Memory.wf_filter _ h

/-- A store takes its place at its home, and the memory stays canonical. -/
theorem State.place_wf (s : State) (core sid loc : Nat) (bytes : List MByte) (plain eng : Nat) (rels : List Nat)
    (whole : Bool) (h : Memory.wf s.mem = true) :
    Memory.wf (s.place core sid loc bytes plain eng rels whole).mem = true := wf_putBytes loc (s.merged loc bytes whole) h

theorem State.enterStore_mem (s : State) (c g : Nat) (w : Write) (skip : Option Nat) :
    (s.enterStore c g w skip).mem = s.mem := rfl

/-- The gated stores enter the view, and no home byte changes. -/
theorem State.flush_mem (s : State) (g : Nat) : (s.flush g).mem = s.mem := by
  have key : ∀ (c : Nat) (ws : List Write) (t : State), (ws.foldl (fun s w => s.enterStore c g w none) t).mem = t.mem := by
    intro c ws
    induction ws with
    | nil => intro t; rfl
    | cons w ws ih => intro t; rw [List.foldl_cons, ih]; rfl
  exact key _ _ _

theorem State.publish_wf (s : State) (c sid m : Nat) (h : Memory.wf s.mem = true) : Memory.wf (s.publish c sid m).mem = true := by
  unfold State.publish
  simp only
  split
  · exact h
  · split
    · exact wf_putBytes _ _ h
    · exact h

theorem State.homeAccess_wf (s : State) (c g loc : Nat) (bytes : List MByte) (rank : Nat) (rels : List Nat)
    (h : Memory.wf s.mem = true) : Memory.wf (s.homeAccess c g loc bytes rank rels).mem = true :=
  State.place_wf { s with nextSid := s.nextSid + 1 } c s.nextSid loc bytes _ _ rels false h

theorem State.agentWrite_wf (s : State) (loc : Nat) (bytes : List MByte) (h : Memory.wf s.mem = true) :
    Memory.wf (s.agentWrite loc bytes).mem = true := by
  exact State.place_wf _ _ _ loc bytes _ _ _ false h

theorem State.outerWrite_wf (s : State) (agent rank loc : Nat) (bytes : List MByte) (h : Memory.wf s.mem = true) :
    Memory.wf (s.outerWrite agent rank loc bytes).mem = true := State.place_wf _ _ _ loc bytes _ _ _ false h

/-- An oldest gated store enters the view, and no home byte changes. -/
theorem State.flushOne_mem (s : State) (g : Nat) : (s.flushOne g).mem = s.mem := by
  unfold State.flushOne
  simp only
  split <;> rfl

theorem State.homeStore_wf (s : State) (g loc : Nat) (bytes : List MByte) (rank : Nat) (rels : List Nat)
    (h : Memory.wf s.mem = true) : Memory.wf (s.homeStore g loc bytes rank rels).mem = true :=
  State.homeAccess_wf s _ g loc bytes rank rels h

theorem State.settle_mem (s : State) (c fuel : Nat) : (s.settle c fuel).mem = s.mem := by
  induction fuel generalizing s with
  | zero => rfl
  | succ n ih =>
    unfold State.settle
    repeat' split
    · rfl
    · exact ih _
    · exact ih _
    · rfl

/-- Publishing stores in order keeps the canonical form. -/
theorem State.publishList_wf (c m : Nat) (sids : List Nat) (s : State) (h : Memory.wf s.mem = true) :
    Memory.wf (sids.foldl (fun s sid => s.publish c sid m) s).mem = true := by
  induction sids generalizing s with
  | nil => exact h
  | cons x t ih => exact ih _ (s.publish_wf c x m h)

/-- Completing a release keeps the canonical form. -/
theorem State.completeRelease_wf (s : State) (c : Nat) (h : Memory.wf s.mem = true) :
    Memory.wf (s.completeRelease c).mem = true := by
  unfold State.completeRelease
  repeat' split
  · exact h
  · rw [State.settle_mem]; exact h
  · rw [State.settle_mem]; exact State.publishList_wf c _ _ s h

theorem State.completeAll_wf (s : State) (c : Nat) (h : Memory.wf s.mem = true) : Memory.wf (s.completeAll c).mem = true := by
  have key : ∀ (ms : List Nat) (t : State), Memory.wf t.mem = true →
      Memory.wf (ms.foldl (fun s _ => s.completeRelease c) t).mem = true := by
    intro ms
    induction ms with
    | nil => intro t ht; exact ht
    | cons _ ms ih => intro t ht; exact ih _ (t.completeRelease_wf c ht)
  exact key _ s h

/-! ### Cached copies and the clock -/

/-- Asking whether an access meets a bad cached copy changes nothing but the count of free values. -/
theorem State.copyHit_state (s : State) (k : Core) (a n : Nat) :
    (s.copyHit k a n).2 = { s with free := (s.copyHit k a n).2.free } := rfl

/-- Where no cached copy is bad, an access meets none and draws nothing. -/
theorem State.copyHit_clean (s : State) {k : Core} (h : k.badCopy = []) (a n : Nat) : s.copyHit k a n = (false, s) := by
  simp [State.copyHit, h]

/-- A bad copy keeps the values that the core sees. -/
theorem Core.spoilCopy_view (k : Core) (loc a : Nat) :
    ((k.spoilCopy loc).view.find? a).map (·.val) = (k.view.find? a).map (·.val) := by
  simp only [Core.spoilCopy, Tab.find?_mapVals, Option.map_map]
  cases k.view.find? a with
  | none => rfl
  | some v => simp only [Option.map_some, Function.comp]; split <;> rfl

@[simp] theorem State.spoilCopy_mem (s : State) (n loc : Nat) : (s.spoilCopy n loc).mem = s.mem := by
  unfold State.spoilCopy
  by_cases h : n < 512 <;> simp only [h, if_true, if_false] <;> rfl

/-- The clock's passing takes a group's NP, and notes an overrun, or changes nothing (R148). -/
theorem Group.passClock_cases (x : Group) (v : BitVec 64) :
    x.passClock v = x ∨ x.np = true ∧ x.passClock v = { x with np := false, overrun := true } := by
  unfold Group.passClock
  split
  · exact .inr ⟨by simp_all, rfl⟩
  · exact .inl rfl

@[simp] theorem State.passClock_mem (s : State) (c : Nat) (v : BitVec 64) : (s.passClock c v).mem = s.mem := rfl

/-- The clock's passing leaves every thread alone. -/
theorem State.passClock_th (s : State) (c : Nat) (v : BitVec 64) (g : Nat) :
    ((s.passClock c v).group g).th = (s.group g).th := by
  unfold State.passClock State.group State.modCore State.setCore Tab.get
  rw [Tab.find?_mapVals]
  cases Tab.find? s.groups g with
  | none => rfl
  | some x =>
    simp only [Option.map_some, Option.getD_some]
    split
    · obtain h | ⟨-, h⟩ := x.passClock_cases v <;> rw [h]
    · rfl

/-! ### Threads -/

/-- A group's thread and wait stay where a store becomes observable: at most a conflict is noted. -/
theorem State.conflicts_th (s : State) (loc n : Nat) (on : Nat → Bool) (skip : Option Nat) (g : Nat) :
    ((s.conflicts loc n on skip).group g).th = (s.group g).th := by
  unfold State.conflicts State.group Tab.get
  rw [Tab.find?_mapVals]
  cases Tab.find? s.groups g with
  | none => rfl
  | some x => simp only [Option.map_some, Option.getD_some]; split <;> rfl

end Sys2Proof.Machine
end

