-- ==== Sys2Proof/Laws/State.lean ====
section
/-! SUPPORT. One lemma for each field of the state and each update by number: what the update leaves alone. -/

namespace Sys2Proof.Machine

@[simp] theorem State.setGroup_cur (s : State) (g : Nat) (x : Group) : (s.setGroup g x).cur = s.cur := rfl
@[simp] theorem State.setGroup_inputs (s : State) (g : Nat) (x : Group) : (s.setGroup g x).inputs = s.inputs := rfl
@[simp] theorem State.setGroup_free (s : State) (g : Nat) (x : Group) : (s.setGroup g x).free = s.free := rfl
@[simp] theorem State.setGroup_blocks (s : State) (g : Nat) (x : Group) : (s.setGroup g x).blocks = s.blocks := rfl
@[simp] theorem State.setGroup_launches (s : State) (g : Nat) (x : Group) : (s.setGroup g x).launches = s.launches := rfl
@[simp] theorem State.setGroup_contexts (s : State) (g : Nat) (x : Group) : (s.setGroup g x).contexts = s.contexts := rfl
@[simp] theorem State.setGroup_queues (s : State) (g : Nat) (x : Group) : (s.setGroup g x).queues = s.queues := rfl
@[simp] theorem State.setGroup_cores (s : State) (g : Nat) (x : Group) : (s.setGroup g x).cores = s.cores := rfl
@[simp] theorem State.setGroup_clusters (s : State) (g : Nat) (x : Group) : (s.setGroup g x).clusters = s.clusters := rfl
@[simp] theorem State.setGroup_barriers (s : State) (g : Nat) (x : Group) : (s.setGroup g x).barriers = s.barriers := rfl
@[simp] theorem State.setGroup_ops (s : State) (g : Nat) (x : Group) : (s.setGroup g x).ops = s.ops := rfl
@[simp] theorem State.setGroup_units (s : State) (g : Nat) (x : Group) : (s.setGroup g x).units = s.units := rfl
@[simp] theorem State.setGroup_trans (s : State) (g : Nat) (x : Group) : (s.setGroup g x).trans = s.trans := rfl
@[simp] theorem State.setGroup_domains (s : State) (g : Nat) (x : Group) : (s.setGroup g x).domains = s.domains := rfl
@[simp] theorem State.setGroup_mem (s : State) (g : Nat) (x : Group) : (s.setGroup g x).mem = s.mem := rfl
@[simp] theorem State.setGroup_poison (s : State) (g : Nat) (x : Group) : (s.setGroup g x).poison = s.poison := rfl
@[simp] theorem State.setGroup_hist (s : State) (g : Nat) (x : Group) : (s.setGroup g x).hist = s.hist := rfl
@[simp] theorem State.setGroup_rels (s : State) (g : Nat) (x : Group) : (s.setGroup g x).rels = s.rels := rfl
@[simp] theorem State.setGroup_nextSeq (s : State) (g : Nat) (x : Group) : (s.setGroup g x).nextSeq = s.nextSeq := rfl
@[simp] theorem State.setGroup_nextSid (s : State) (g : Nat) (x : Group) : (s.setGroup g x).nextSid = s.nextSid := rfl
@[simp] theorem State.setGroup_tlb (s : State) (g : Nat) (x : Group) : (s.setGroup g x).tlb = s.tlb := rfl
@[simp] theorem State.setGroup_frames (s : State) (g : Nat) (x : Group) : (s.setGroup g x).frames = s.frames := rfl
@[simp] theorem State.setGroup_tick (s : State) (g : Nat) (x : Group) : (s.setGroup g x).tick = s.tick := rfl
@[simp] theorem State.setGroup_mailboxes (s : State) (g : Nat) (x : Group) : (s.setGroup g x).mailboxes = s.mailboxes := rfl
@[simp] theorem State.setGroup_msix (s : State) (g : Nat) (x : Group) : (s.setGroup g x).msix = s.msix := rfl
@[simp] theorem State.setGroup_routes (s : State) (g : Nat) (x : Group) : (s.setGroup g x).routes = s.routes := rfl
@[simp] theorem State.setGroup_sriov (s : State) (g : Nat) (x : Group) : (s.setGroup g x).sriov = s.sriov := rfl
@[simp] theorem State.setGroup_atomicOps (s : State) (g : Nat) (x : Group) : (s.setGroup g x).atomicOps = s.atomicOps := rfl
@[simp] theorem State.setGroup_keys (s : State) (g : Nat) (x : Group) : (s.setGroup g x).keys = s.keys := rfl
@[simp] theorem State.setGroup_kernelCounter (s : State) (g : Nat) (x : Group) : (s.setGroup g x).kernelCounter = s.kernelCounter := rfl
@[simp] theorem State.setGroup_firmwareCounter (s : State) (g : Nat) (x : Group) : (s.setGroup g x).firmwareCounter = s.firmwareCounter := rfl
@[simp] theorem State.setGroup_nonce (s : State) (g : Nat) (x : Group) : (s.setGroup g x).nonce = s.nonce := rfl
@[simp] theorem State.setGroup_journal (s : State) (g : Nat) (x : Group) : (s.setGroup g x).journal = s.journal := rfl
@[simp] theorem State.setGroup_fuses (s : State) (g : Nat) (x : Group) : (s.setGroup g x).fuses = s.fuses := rfl
@[simp] theorem State.setGroup_bootCount (s : State) (g : Nat) (x : Group) : (s.setGroup g x).bootCount = s.bootCount := rfl
@[simp] theorem State.setGroup_booted (s : State) (g : Nat) (x : Group) : (s.setGroup g x).booted = s.booted := rfl
@[simp] theorem State.setGroup_stopReported (s : State) (g : Nat) (x : Group) : (s.setGroup g x).stopReported = s.stopReported := rfl
@[simp] theorem State.setGroup_fwSlot (s : State) (g : Nat) (x : Group) : (s.setGroup g x).fwSlot = s.fwSlot := rfl
@[simp] theorem State.setGroup_fwVersions (s : State) (g : Nat) (x : Group) : (s.setGroup g x).fwVersions = s.fwVersions := rfl
@[simp] theorem State.setGroup_mallets (s : State) (g : Nat) (x : Group) : (s.setGroup g x).mallets = s.mallets := rfl
@[simp] theorem State.setGroup_pbudget (s : State) (g : Nat) (x : Group) : (s.setGroup g x).pbudget = s.pbudget := rfl
@[simp] theorem State.setGroup_counters (s : State) (g : Nat) (x : Group) : (s.setGroup g x).counters = s.counters := rfl
@[simp] theorem State.setGroup_frameErrors (s : State) (g : Nat) (x : Group) : (s.setGroup g x).frameErrors = s.frameErrors := rfl
@[simp] theorem State.setGroup_reports (s : State) (g : Nat) (x : Group) : (s.setGroup g x).reports = s.reports := rfl
@[simp] theorem State.setGroup_pkg (s : State) (g : Nat) (x : Group) : (s.setGroup g x).pkg = s.pkg := rfl
@[simp] theorem State.setGroup_ports (s : State) (g : Nat) (x : Group) : (s.setGroup g x).ports = s.ports := rfl
@[simp] theorem State.setGroup_unreachable (s : State) (g : Nat) (x : Group) : (s.setGroup g x).unreachable = s.unreachable := rfl
@[simp] theorem State.setGroup_merge (s : State) (g : Nat) (x : Group) : (s.setGroup g x).merge = s.merge := rfl
@[simp] theorem State.setGroup_mergeOut (s : State) (g : Nat) (x : Group) : (s.setGroup g x).mergeOut = s.mergeOut := rfl
@[simp] theorem State.setGroup_gangs (s : State) (g : Nat) (x : Group) : (s.setGroup g x).gangs = s.gangs := rfl
@[simp] theorem State.setGroup_hotDies (s : State) (g : Nat) (x : Group) : (s.setGroup g x).hotDies = s.hotDies := rfl

@[simp] theorem State.setGrp_cur (s : State) (x : Group) : (s.setGrp x).cur = s.cur := rfl
@[simp] theorem State.setGrp_inputs (s : State) (x : Group) : (s.setGrp x).inputs = s.inputs := rfl
@[simp] theorem State.setGrp_free (s : State) (x : Group) : (s.setGrp x).free = s.free := rfl
@[simp] theorem State.setGrp_blocks (s : State) (x : Group) : (s.setGrp x).blocks = s.blocks := rfl
@[simp] theorem State.setGrp_launches (s : State) (x : Group) : (s.setGrp x).launches = s.launches := rfl
@[simp] theorem State.setGrp_contexts (s : State) (x : Group) : (s.setGrp x).contexts = s.contexts := rfl
@[simp] theorem State.setGrp_queues (s : State) (x : Group) : (s.setGrp x).queues = s.queues := rfl
@[simp] theorem State.setGrp_cores (s : State) (x : Group) : (s.setGrp x).cores = s.cores := rfl
@[simp] theorem State.setGrp_clusters (s : State) (x : Group) : (s.setGrp x).clusters = s.clusters := rfl
@[simp] theorem State.setGrp_barriers (s : State) (x : Group) : (s.setGrp x).barriers = s.barriers := rfl
@[simp] theorem State.setGrp_ops (s : State) (x : Group) : (s.setGrp x).ops = s.ops := rfl
@[simp] theorem State.setGrp_units (s : State) (x : Group) : (s.setGrp x).units = s.units := rfl
@[simp] theorem State.setGrp_trans (s : State) (x : Group) : (s.setGrp x).trans = s.trans := rfl
@[simp] theorem State.setGrp_domains (s : State) (x : Group) : (s.setGrp x).domains = s.domains := rfl
@[simp] theorem State.setGrp_mem (s : State) (x : Group) : (s.setGrp x).mem = s.mem := rfl
@[simp] theorem State.setGrp_poison (s : State) (x : Group) : (s.setGrp x).poison = s.poison := rfl
@[simp] theorem State.setGrp_hist (s : State) (x : Group) : (s.setGrp x).hist = s.hist := rfl
@[simp] theorem State.setGrp_rels (s : State) (x : Group) : (s.setGrp x).rels = s.rels := rfl
@[simp] theorem State.setGrp_nextSeq (s : State) (x : Group) : (s.setGrp x).nextSeq = s.nextSeq := rfl
@[simp] theorem State.setGrp_nextSid (s : State) (x : Group) : (s.setGrp x).nextSid = s.nextSid := rfl
@[simp] theorem State.setGrp_tlb (s : State) (x : Group) : (s.setGrp x).tlb = s.tlb := rfl
@[simp] theorem State.setGrp_frames (s : State) (x : Group) : (s.setGrp x).frames = s.frames := rfl
@[simp] theorem State.setGrp_tick (s : State) (x : Group) : (s.setGrp x).tick = s.tick := rfl
@[simp] theorem State.setGrp_mailboxes (s : State) (x : Group) : (s.setGrp x).mailboxes = s.mailboxes := rfl
@[simp] theorem State.setGrp_msix (s : State) (x : Group) : (s.setGrp x).msix = s.msix := rfl
@[simp] theorem State.setGrp_routes (s : State) (x : Group) : (s.setGrp x).routes = s.routes := rfl
@[simp] theorem State.setGrp_sriov (s : State) (x : Group) : (s.setGrp x).sriov = s.sriov := rfl
@[simp] theorem State.setGrp_atomicOps (s : State) (x : Group) : (s.setGrp x).atomicOps = s.atomicOps := rfl
@[simp] theorem State.setGrp_keys (s : State) (x : Group) : (s.setGrp x).keys = s.keys := rfl
@[simp] theorem State.setGrp_kernelCounter (s : State) (x : Group) : (s.setGrp x).kernelCounter = s.kernelCounter := rfl
@[simp] theorem State.setGrp_firmwareCounter (s : State) (x : Group) : (s.setGrp x).firmwareCounter = s.firmwareCounter := rfl
@[simp] theorem State.setGrp_nonce (s : State) (x : Group) : (s.setGrp x).nonce = s.nonce := rfl
@[simp] theorem State.setGrp_journal (s : State) (x : Group) : (s.setGrp x).journal = s.journal := rfl
@[simp] theorem State.setGrp_fuses (s : State) (x : Group) : (s.setGrp x).fuses = s.fuses := rfl
@[simp] theorem State.setGrp_bootCount (s : State) (x : Group) : (s.setGrp x).bootCount = s.bootCount := rfl
@[simp] theorem State.setGrp_booted (s : State) (x : Group) : (s.setGrp x).booted = s.booted := rfl
@[simp] theorem State.setGrp_stopReported (s : State) (x : Group) : (s.setGrp x).stopReported = s.stopReported := rfl
@[simp] theorem State.setGrp_fwSlot (s : State) (x : Group) : (s.setGrp x).fwSlot = s.fwSlot := rfl
@[simp] theorem State.setGrp_fwVersions (s : State) (x : Group) : (s.setGrp x).fwVersions = s.fwVersions := rfl
@[simp] theorem State.setGrp_mallets (s : State) (x : Group) : (s.setGrp x).mallets = s.mallets := rfl
@[simp] theorem State.setGrp_pbudget (s : State) (x : Group) : (s.setGrp x).pbudget = s.pbudget := rfl
@[simp] theorem State.setGrp_counters (s : State) (x : Group) : (s.setGrp x).counters = s.counters := rfl
@[simp] theorem State.setGrp_frameErrors (s : State) (x : Group) : (s.setGrp x).frameErrors = s.frameErrors := rfl
@[simp] theorem State.setGrp_reports (s : State) (x : Group) : (s.setGrp x).reports = s.reports := rfl
@[simp] theorem State.setGrp_pkg (s : State) (x : Group) : (s.setGrp x).pkg = s.pkg := rfl
@[simp] theorem State.setGrp_ports (s : State) (x : Group) : (s.setGrp x).ports = s.ports := rfl
@[simp] theorem State.setGrp_unreachable (s : State) (x : Group) : (s.setGrp x).unreachable = s.unreachable := rfl
@[simp] theorem State.setGrp_merge (s : State) (x : Group) : (s.setGrp x).merge = s.merge := rfl
@[simp] theorem State.setGrp_mergeOut (s : State) (x : Group) : (s.setGrp x).mergeOut = s.mergeOut := rfl
@[simp] theorem State.setGrp_gangs (s : State) (x : Group) : (s.setGrp x).gangs = s.gangs := rfl
@[simp] theorem State.setGrp_hotDies (s : State) (x : Group) : (s.setGrp x).hotDies = s.hotDies := rfl

@[simp] theorem State.setCore_cur (s : State) (c : Nat) (x : Core) : (s.setCore c x).cur = s.cur := rfl
@[simp] theorem State.setCore_inputs (s : State) (c : Nat) (x : Core) : (s.setCore c x).inputs = s.inputs := rfl
@[simp] theorem State.setCore_free (s : State) (c : Nat) (x : Core) : (s.setCore c x).free = s.free := rfl
@[simp] theorem State.setCore_groups (s : State) (c : Nat) (x : Core) : (s.setCore c x).groups = s.groups := rfl
@[simp] theorem State.setCore_blocks (s : State) (c : Nat) (x : Core) : (s.setCore c x).blocks = s.blocks := rfl
@[simp] theorem State.setCore_launches (s : State) (c : Nat) (x : Core) : (s.setCore c x).launches = s.launches := rfl
@[simp] theorem State.setCore_contexts (s : State) (c : Nat) (x : Core) : (s.setCore c x).contexts = s.contexts := rfl
@[simp] theorem State.setCore_queues (s : State) (c : Nat) (x : Core) : (s.setCore c x).queues = s.queues := rfl
@[simp] theorem State.setCore_clusters (s : State) (c : Nat) (x : Core) : (s.setCore c x).clusters = s.clusters := rfl
@[simp] theorem State.setCore_barriers (s : State) (c : Nat) (x : Core) : (s.setCore c x).barriers = s.barriers := rfl
@[simp] theorem State.setCore_ops (s : State) (c : Nat) (x : Core) : (s.setCore c x).ops = s.ops := rfl
@[simp] theorem State.setCore_units (s : State) (c : Nat) (x : Core) : (s.setCore c x).units = s.units := rfl
@[simp] theorem State.setCore_trans (s : State) (c : Nat) (x : Core) : (s.setCore c x).trans = s.trans := rfl
@[simp] theorem State.setCore_domains (s : State) (c : Nat) (x : Core) : (s.setCore c x).domains = s.domains := rfl
@[simp] theorem State.setCore_mem (s : State) (c : Nat) (x : Core) : (s.setCore c x).mem = s.mem := rfl
@[simp] theorem State.setCore_poison (s : State) (c : Nat) (x : Core) : (s.setCore c x).poison = s.poison := rfl
@[simp] theorem State.setCore_hist (s : State) (c : Nat) (x : Core) : (s.setCore c x).hist = s.hist := rfl
@[simp] theorem State.setCore_rels (s : State) (c : Nat) (x : Core) : (s.setCore c x).rels = s.rels := rfl
@[simp] theorem State.setCore_nextSeq (s : State) (c : Nat) (x : Core) : (s.setCore c x).nextSeq = s.nextSeq := rfl
@[simp] theorem State.setCore_nextSid (s : State) (c : Nat) (x : Core) : (s.setCore c x).nextSid = s.nextSid := rfl
@[simp] theorem State.setCore_tlb (s : State) (c : Nat) (x : Core) : (s.setCore c x).tlb = s.tlb := rfl
@[simp] theorem State.setCore_frames (s : State) (c : Nat) (x : Core) : (s.setCore c x).frames = s.frames := rfl
@[simp] theorem State.setCore_tick (s : State) (c : Nat) (x : Core) : (s.setCore c x).tick = s.tick := rfl
@[simp] theorem State.setCore_mailboxes (s : State) (c : Nat) (x : Core) : (s.setCore c x).mailboxes = s.mailboxes := rfl
@[simp] theorem State.setCore_msix (s : State) (c : Nat) (x : Core) : (s.setCore c x).msix = s.msix := rfl
@[simp] theorem State.setCore_routes (s : State) (c : Nat) (x : Core) : (s.setCore c x).routes = s.routes := rfl
@[simp] theorem State.setCore_sriov (s : State) (c : Nat) (x : Core) : (s.setCore c x).sriov = s.sriov := rfl
@[simp] theorem State.setCore_atomicOps (s : State) (c : Nat) (x : Core) : (s.setCore c x).atomicOps = s.atomicOps := rfl
@[simp] theorem State.setCore_keys (s : State) (c : Nat) (x : Core) : (s.setCore c x).keys = s.keys := rfl
@[simp] theorem State.setCore_kernelCounter (s : State) (c : Nat) (x : Core) : (s.setCore c x).kernelCounter = s.kernelCounter := rfl
@[simp] theorem State.setCore_firmwareCounter (s : State) (c : Nat) (x : Core) : (s.setCore c x).firmwareCounter = s.firmwareCounter := rfl
@[simp] theorem State.setCore_nonce (s : State) (c : Nat) (x : Core) : (s.setCore c x).nonce = s.nonce := rfl
@[simp] theorem State.setCore_journal (s : State) (c : Nat) (x : Core) : (s.setCore c x).journal = s.journal := rfl
@[simp] theorem State.setCore_fuses (s : State) (c : Nat) (x : Core) : (s.setCore c x).fuses = s.fuses := rfl
@[simp] theorem State.setCore_bootCount (s : State) (c : Nat) (x : Core) : (s.setCore c x).bootCount = s.bootCount := rfl
@[simp] theorem State.setCore_booted (s : State) (c : Nat) (x : Core) : (s.setCore c x).booted = s.booted := rfl
@[simp] theorem State.setCore_stopReported (s : State) (c : Nat) (x : Core) : (s.setCore c x).stopReported = s.stopReported := rfl
@[simp] theorem State.setCore_fwSlot (s : State) (c : Nat) (x : Core) : (s.setCore c x).fwSlot = s.fwSlot := rfl
@[simp] theorem State.setCore_fwVersions (s : State) (c : Nat) (x : Core) : (s.setCore c x).fwVersions = s.fwVersions := rfl
@[simp] theorem State.setCore_mallets (s : State) (c : Nat) (x : Core) : (s.setCore c x).mallets = s.mallets := rfl
@[simp] theorem State.setCore_pbudget (s : State) (c : Nat) (x : Core) : (s.setCore c x).pbudget = s.pbudget := rfl
@[simp] theorem State.setCore_counters (s : State) (c : Nat) (x : Core) : (s.setCore c x).counters = s.counters := rfl
@[simp] theorem State.setCore_frameErrors (s : State) (c : Nat) (x : Core) : (s.setCore c x).frameErrors = s.frameErrors := rfl
@[simp] theorem State.setCore_reports (s : State) (c : Nat) (x : Core) : (s.setCore c x).reports = s.reports := rfl
@[simp] theorem State.setCore_pkg (s : State) (c : Nat) (x : Core) : (s.setCore c x).pkg = s.pkg := rfl
@[simp] theorem State.setCore_ports (s : State) (c : Nat) (x : Core) : (s.setCore c x).ports = s.ports := rfl
@[simp] theorem State.setCore_unreachable (s : State) (c : Nat) (x : Core) : (s.setCore c x).unreachable = s.unreachable := rfl
@[simp] theorem State.setCore_merge (s : State) (c : Nat) (x : Core) : (s.setCore c x).merge = s.merge := rfl
@[simp] theorem State.setCore_mergeOut (s : State) (c : Nat) (x : Core) : (s.setCore c x).mergeOut = s.mergeOut := rfl
@[simp] theorem State.setCore_gangs (s : State) (c : Nat) (x : Core) : (s.setCore c x).gangs = s.gangs := rfl
@[simp] theorem State.setCore_hotDies (s : State) (c : Nat) (x : Core) : (s.setCore c x).hotDies = s.hotDies := rfl

@[simp] theorem State.setBlock_cur (s : State) (b : Nat) (x : Block) : (s.setBlock b x).cur = s.cur := rfl
@[simp] theorem State.setBlock_inputs (s : State) (b : Nat) (x : Block) : (s.setBlock b x).inputs = s.inputs := rfl
@[simp] theorem State.setBlock_free (s : State) (b : Nat) (x : Block) : (s.setBlock b x).free = s.free := rfl
@[simp] theorem State.setBlock_groups (s : State) (b : Nat) (x : Block) : (s.setBlock b x).groups = s.groups := rfl
@[simp] theorem State.setBlock_launches (s : State) (b : Nat) (x : Block) : (s.setBlock b x).launches = s.launches := rfl
@[simp] theorem State.setBlock_contexts (s : State) (b : Nat) (x : Block) : (s.setBlock b x).contexts = s.contexts := rfl
@[simp] theorem State.setBlock_queues (s : State) (b : Nat) (x : Block) : (s.setBlock b x).queues = s.queues := rfl
@[simp] theorem State.setBlock_cores (s : State) (b : Nat) (x : Block) : (s.setBlock b x).cores = s.cores := rfl
@[simp] theorem State.setBlock_clusters (s : State) (b : Nat) (x : Block) : (s.setBlock b x).clusters = s.clusters := rfl
@[simp] theorem State.setBlock_barriers (s : State) (b : Nat) (x : Block) : (s.setBlock b x).barriers = s.barriers := rfl
@[simp] theorem State.setBlock_ops (s : State) (b : Nat) (x : Block) : (s.setBlock b x).ops = s.ops := rfl
@[simp] theorem State.setBlock_units (s : State) (b : Nat) (x : Block) : (s.setBlock b x).units = s.units := rfl
@[simp] theorem State.setBlock_trans (s : State) (b : Nat) (x : Block) : (s.setBlock b x).trans = s.trans := rfl
@[simp] theorem State.setBlock_domains (s : State) (b : Nat) (x : Block) : (s.setBlock b x).domains = s.domains := rfl
@[simp] theorem State.setBlock_mem (s : State) (b : Nat) (x : Block) : (s.setBlock b x).mem = s.mem := rfl
@[simp] theorem State.setBlock_poison (s : State) (b : Nat) (x : Block) : (s.setBlock b x).poison = s.poison := rfl
@[simp] theorem State.setBlock_hist (s : State) (b : Nat) (x : Block) : (s.setBlock b x).hist = s.hist := rfl
@[simp] theorem State.setBlock_rels (s : State) (b : Nat) (x : Block) : (s.setBlock b x).rels = s.rels := rfl
@[simp] theorem State.setBlock_nextSeq (s : State) (b : Nat) (x : Block) : (s.setBlock b x).nextSeq = s.nextSeq := rfl
@[simp] theorem State.setBlock_nextSid (s : State) (b : Nat) (x : Block) : (s.setBlock b x).nextSid = s.nextSid := rfl
@[simp] theorem State.setBlock_tlb (s : State) (b : Nat) (x : Block) : (s.setBlock b x).tlb = s.tlb := rfl
@[simp] theorem State.setBlock_frames (s : State) (b : Nat) (x : Block) : (s.setBlock b x).frames = s.frames := rfl
@[simp] theorem State.setBlock_tick (s : State) (b : Nat) (x : Block) : (s.setBlock b x).tick = s.tick := rfl
@[simp] theorem State.setBlock_mailboxes (s : State) (b : Nat) (x : Block) : (s.setBlock b x).mailboxes = s.mailboxes := rfl
@[simp] theorem State.setBlock_msix (s : State) (b : Nat) (x : Block) : (s.setBlock b x).msix = s.msix := rfl
@[simp] theorem State.setBlock_routes (s : State) (b : Nat) (x : Block) : (s.setBlock b x).routes = s.routes := rfl
@[simp] theorem State.setBlock_sriov (s : State) (b : Nat) (x : Block) : (s.setBlock b x).sriov = s.sriov := rfl
@[simp] theorem State.setBlock_atomicOps (s : State) (b : Nat) (x : Block) : (s.setBlock b x).atomicOps = s.atomicOps := rfl
@[simp] theorem State.setBlock_keys (s : State) (b : Nat) (x : Block) : (s.setBlock b x).keys = s.keys := rfl
@[simp] theorem State.setBlock_kernelCounter (s : State) (b : Nat) (x : Block) : (s.setBlock b x).kernelCounter = s.kernelCounter := rfl
@[simp] theorem State.setBlock_firmwareCounter (s : State) (b : Nat) (x : Block) : (s.setBlock b x).firmwareCounter = s.firmwareCounter := rfl
@[simp] theorem State.setBlock_nonce (s : State) (b : Nat) (x : Block) : (s.setBlock b x).nonce = s.nonce := rfl
@[simp] theorem State.setBlock_journal (s : State) (b : Nat) (x : Block) : (s.setBlock b x).journal = s.journal := rfl
@[simp] theorem State.setBlock_fuses (s : State) (b : Nat) (x : Block) : (s.setBlock b x).fuses = s.fuses := rfl
@[simp] theorem State.setBlock_bootCount (s : State) (b : Nat) (x : Block) : (s.setBlock b x).bootCount = s.bootCount := rfl
@[simp] theorem State.setBlock_booted (s : State) (b : Nat) (x : Block) : (s.setBlock b x).booted = s.booted := rfl
@[simp] theorem State.setBlock_stopReported (s : State) (b : Nat) (x : Block) : (s.setBlock b x).stopReported = s.stopReported := rfl
@[simp] theorem State.setBlock_fwSlot (s : State) (b : Nat) (x : Block) : (s.setBlock b x).fwSlot = s.fwSlot := rfl
@[simp] theorem State.setBlock_fwVersions (s : State) (b : Nat) (x : Block) : (s.setBlock b x).fwVersions = s.fwVersions := rfl
@[simp] theorem State.setBlock_mallets (s : State) (b : Nat) (x : Block) : (s.setBlock b x).mallets = s.mallets := rfl
@[simp] theorem State.setBlock_pbudget (s : State) (b : Nat) (x : Block) : (s.setBlock b x).pbudget = s.pbudget := rfl
@[simp] theorem State.setBlock_counters (s : State) (b : Nat) (x : Block) : (s.setBlock b x).counters = s.counters := rfl
@[simp] theorem State.setBlock_frameErrors (s : State) (b : Nat) (x : Block) : (s.setBlock b x).frameErrors = s.frameErrors := rfl
@[simp] theorem State.setBlock_reports (s : State) (b : Nat) (x : Block) : (s.setBlock b x).reports = s.reports := rfl
@[simp] theorem State.setBlock_pkg (s : State) (b : Nat) (x : Block) : (s.setBlock b x).pkg = s.pkg := rfl
@[simp] theorem State.setBlock_ports (s : State) (b : Nat) (x : Block) : (s.setBlock b x).ports = s.ports := rfl
@[simp] theorem State.setBlock_unreachable (s : State) (b : Nat) (x : Block) : (s.setBlock b x).unreachable = s.unreachable := rfl
@[simp] theorem State.setBlock_merge (s : State) (b : Nat) (x : Block) : (s.setBlock b x).merge = s.merge := rfl
@[simp] theorem State.setBlock_mergeOut (s : State) (b : Nat) (x : Block) : (s.setBlock b x).mergeOut = s.mergeOut := rfl
@[simp] theorem State.setBlock_gangs (s : State) (b : Nat) (x : Block) : (s.setBlock b x).gangs = s.gangs := rfl
@[simp] theorem State.setBlock_hotDies (s : State) (b : Nat) (x : Block) : (s.setBlock b x).hotDies = s.hotDies := rfl

@[simp] theorem State.setLaunch_cur (s : State) (l : Nat) (x : Launch) : (s.setLaunch l x).cur = s.cur := rfl
@[simp] theorem State.setLaunch_inputs (s : State) (l : Nat) (x : Launch) : (s.setLaunch l x).inputs = s.inputs := rfl
@[simp] theorem State.setLaunch_free (s : State) (l : Nat) (x : Launch) : (s.setLaunch l x).free = s.free := rfl
@[simp] theorem State.setLaunch_groups (s : State) (l : Nat) (x : Launch) : (s.setLaunch l x).groups = s.groups := rfl
@[simp] theorem State.setLaunch_blocks (s : State) (l : Nat) (x : Launch) : (s.setLaunch l x).blocks = s.blocks := rfl
@[simp] theorem State.setLaunch_contexts (s : State) (l : Nat) (x : Launch) : (s.setLaunch l x).contexts = s.contexts := rfl
@[simp] theorem State.setLaunch_queues (s : State) (l : Nat) (x : Launch) : (s.setLaunch l x).queues = s.queues := rfl
@[simp] theorem State.setLaunch_cores (s : State) (l : Nat) (x : Launch) : (s.setLaunch l x).cores = s.cores := rfl
@[simp] theorem State.setLaunch_clusters (s : State) (l : Nat) (x : Launch) : (s.setLaunch l x).clusters = s.clusters := rfl
@[simp] theorem State.setLaunch_barriers (s : State) (l : Nat) (x : Launch) : (s.setLaunch l x).barriers = s.barriers := rfl
@[simp] theorem State.setLaunch_ops (s : State) (l : Nat) (x : Launch) : (s.setLaunch l x).ops = s.ops := rfl
@[simp] theorem State.setLaunch_units (s : State) (l : Nat) (x : Launch) : (s.setLaunch l x).units = s.units := rfl
@[simp] theorem State.setLaunch_trans (s : State) (l : Nat) (x : Launch) : (s.setLaunch l x).trans = s.trans := rfl
@[simp] theorem State.setLaunch_domains (s : State) (l : Nat) (x : Launch) : (s.setLaunch l x).domains = s.domains := rfl
@[simp] theorem State.setLaunch_mem (s : State) (l : Nat) (x : Launch) : (s.setLaunch l x).mem = s.mem := rfl
@[simp] theorem State.setLaunch_poison (s : State) (l : Nat) (x : Launch) : (s.setLaunch l x).poison = s.poison := rfl
@[simp] theorem State.setLaunch_hist (s : State) (l : Nat) (x : Launch) : (s.setLaunch l x).hist = s.hist := rfl
@[simp] theorem State.setLaunch_rels (s : State) (l : Nat) (x : Launch) : (s.setLaunch l x).rels = s.rels := rfl
@[simp] theorem State.setLaunch_nextSeq (s : State) (l : Nat) (x : Launch) : (s.setLaunch l x).nextSeq = s.nextSeq := rfl
@[simp] theorem State.setLaunch_nextSid (s : State) (l : Nat) (x : Launch) : (s.setLaunch l x).nextSid = s.nextSid := rfl
@[simp] theorem State.setLaunch_tlb (s : State) (l : Nat) (x : Launch) : (s.setLaunch l x).tlb = s.tlb := rfl
@[simp] theorem State.setLaunch_frames (s : State) (l : Nat) (x : Launch) : (s.setLaunch l x).frames = s.frames := rfl
@[simp] theorem State.setLaunch_tick (s : State) (l : Nat) (x : Launch) : (s.setLaunch l x).tick = s.tick := rfl
@[simp] theorem State.setLaunch_mailboxes (s : State) (l : Nat) (x : Launch) : (s.setLaunch l x).mailboxes = s.mailboxes := rfl
@[simp] theorem State.setLaunch_msix (s : State) (l : Nat) (x : Launch) : (s.setLaunch l x).msix = s.msix := rfl
@[simp] theorem State.setLaunch_routes (s : State) (l : Nat) (x : Launch) : (s.setLaunch l x).routes = s.routes := rfl
@[simp] theorem State.setLaunch_sriov (s : State) (l : Nat) (x : Launch) : (s.setLaunch l x).sriov = s.sriov := rfl
@[simp] theorem State.setLaunch_atomicOps (s : State) (l : Nat) (x : Launch) : (s.setLaunch l x).atomicOps = s.atomicOps := rfl
@[simp] theorem State.setLaunch_keys (s : State) (l : Nat) (x : Launch) : (s.setLaunch l x).keys = s.keys := rfl
@[simp] theorem State.setLaunch_kernelCounter (s : State) (l : Nat) (x : Launch) : (s.setLaunch l x).kernelCounter = s.kernelCounter := rfl
@[simp] theorem State.setLaunch_firmwareCounter (s : State) (l : Nat) (x : Launch) : (s.setLaunch l x).firmwareCounter = s.firmwareCounter := rfl
@[simp] theorem State.setLaunch_nonce (s : State) (l : Nat) (x : Launch) : (s.setLaunch l x).nonce = s.nonce := rfl
@[simp] theorem State.setLaunch_journal (s : State) (l : Nat) (x : Launch) : (s.setLaunch l x).journal = s.journal := rfl
@[simp] theorem State.setLaunch_fuses (s : State) (l : Nat) (x : Launch) : (s.setLaunch l x).fuses = s.fuses := rfl
@[simp] theorem State.setLaunch_bootCount (s : State) (l : Nat) (x : Launch) : (s.setLaunch l x).bootCount = s.bootCount := rfl
@[simp] theorem State.setLaunch_booted (s : State) (l : Nat) (x : Launch) : (s.setLaunch l x).booted = s.booted := rfl
@[simp] theorem State.setLaunch_stopReported (s : State) (l : Nat) (x : Launch) : (s.setLaunch l x).stopReported = s.stopReported := rfl
@[simp] theorem State.setLaunch_fwSlot (s : State) (l : Nat) (x : Launch) : (s.setLaunch l x).fwSlot = s.fwSlot := rfl
@[simp] theorem State.setLaunch_fwVersions (s : State) (l : Nat) (x : Launch) : (s.setLaunch l x).fwVersions = s.fwVersions := rfl
@[simp] theorem State.setLaunch_mallets (s : State) (l : Nat) (x : Launch) : (s.setLaunch l x).mallets = s.mallets := rfl
@[simp] theorem State.setLaunch_pbudget (s : State) (l : Nat) (x : Launch) : (s.setLaunch l x).pbudget = s.pbudget := rfl
@[simp] theorem State.setLaunch_counters (s : State) (l : Nat) (x : Launch) : (s.setLaunch l x).counters = s.counters := rfl
@[simp] theorem State.setLaunch_frameErrors (s : State) (l : Nat) (x : Launch) : (s.setLaunch l x).frameErrors = s.frameErrors := rfl
@[simp] theorem State.setLaunch_reports (s : State) (l : Nat) (x : Launch) : (s.setLaunch l x).reports = s.reports := rfl
@[simp] theorem State.setLaunch_pkg (s : State) (l : Nat) (x : Launch) : (s.setLaunch l x).pkg = s.pkg := rfl
@[simp] theorem State.setLaunch_ports (s : State) (l : Nat) (x : Launch) : (s.setLaunch l x).ports = s.ports := rfl
@[simp] theorem State.setLaunch_unreachable (s : State) (l : Nat) (x : Launch) : (s.setLaunch l x).unreachable = s.unreachable := rfl
@[simp] theorem State.setLaunch_merge (s : State) (l : Nat) (x : Launch) : (s.setLaunch l x).merge = s.merge := rfl
@[simp] theorem State.setLaunch_mergeOut (s : State) (l : Nat) (x : Launch) : (s.setLaunch l x).mergeOut = s.mergeOut := rfl
@[simp] theorem State.setLaunch_gangs (s : State) (l : Nat) (x : Launch) : (s.setLaunch l x).gangs = s.gangs := rfl
@[simp] theorem State.setLaunch_hotDies (s : State) (l : Nat) (x : Launch) : (s.setLaunch l x).hotDies = s.hotDies := rfl

@[simp] theorem State.setCtx_cur (s : State) (c : Nat) (x : Ctx) : (s.setCtx c x).cur = s.cur := rfl
@[simp] theorem State.setCtx_inputs (s : State) (c : Nat) (x : Ctx) : (s.setCtx c x).inputs = s.inputs := rfl
@[simp] theorem State.setCtx_free (s : State) (c : Nat) (x : Ctx) : (s.setCtx c x).free = s.free := rfl
@[simp] theorem State.setCtx_groups (s : State) (c : Nat) (x : Ctx) : (s.setCtx c x).groups = s.groups := rfl
@[simp] theorem State.setCtx_blocks (s : State) (c : Nat) (x : Ctx) : (s.setCtx c x).blocks = s.blocks := rfl
@[simp] theorem State.setCtx_launches (s : State) (c : Nat) (x : Ctx) : (s.setCtx c x).launches = s.launches := rfl
@[simp] theorem State.setCtx_queues (s : State) (c : Nat) (x : Ctx) : (s.setCtx c x).queues = s.queues := rfl
@[simp] theorem State.setCtx_cores (s : State) (c : Nat) (x : Ctx) : (s.setCtx c x).cores = s.cores := rfl
@[simp] theorem State.setCtx_clusters (s : State) (c : Nat) (x : Ctx) : (s.setCtx c x).clusters = s.clusters := rfl
@[simp] theorem State.setCtx_barriers (s : State) (c : Nat) (x : Ctx) : (s.setCtx c x).barriers = s.barriers := rfl
@[simp] theorem State.setCtx_ops (s : State) (c : Nat) (x : Ctx) : (s.setCtx c x).ops = s.ops := rfl
@[simp] theorem State.setCtx_units (s : State) (c : Nat) (x : Ctx) : (s.setCtx c x).units = s.units := rfl
@[simp] theorem State.setCtx_trans (s : State) (c : Nat) (x : Ctx) : (s.setCtx c x).trans = s.trans := rfl
@[simp] theorem State.setCtx_domains (s : State) (c : Nat) (x : Ctx) : (s.setCtx c x).domains = s.domains := rfl
@[simp] theorem State.setCtx_mem (s : State) (c : Nat) (x : Ctx) : (s.setCtx c x).mem = s.mem := rfl
@[simp] theorem State.setCtx_poison (s : State) (c : Nat) (x : Ctx) : (s.setCtx c x).poison = s.poison := rfl
@[simp] theorem State.setCtx_hist (s : State) (c : Nat) (x : Ctx) : (s.setCtx c x).hist = s.hist := rfl
@[simp] theorem State.setCtx_rels (s : State) (c : Nat) (x : Ctx) : (s.setCtx c x).rels = s.rels := rfl
@[simp] theorem State.setCtx_nextSeq (s : State) (c : Nat) (x : Ctx) : (s.setCtx c x).nextSeq = s.nextSeq := rfl
@[simp] theorem State.setCtx_nextSid (s : State) (c : Nat) (x : Ctx) : (s.setCtx c x).nextSid = s.nextSid := rfl
@[simp] theorem State.setCtx_tlb (s : State) (c : Nat) (x : Ctx) : (s.setCtx c x).tlb = s.tlb := rfl
@[simp] theorem State.setCtx_frames (s : State) (c : Nat) (x : Ctx) : (s.setCtx c x).frames = s.frames := rfl
@[simp] theorem State.setCtx_tick (s : State) (c : Nat) (x : Ctx) : (s.setCtx c x).tick = s.tick := rfl
@[simp] theorem State.setCtx_mailboxes (s : State) (c : Nat) (x : Ctx) : (s.setCtx c x).mailboxes = s.mailboxes := rfl
@[simp] theorem State.setCtx_msix (s : State) (c : Nat) (x : Ctx) : (s.setCtx c x).msix = s.msix := rfl
@[simp] theorem State.setCtx_routes (s : State) (c : Nat) (x : Ctx) : (s.setCtx c x).routes = s.routes := rfl
@[simp] theorem State.setCtx_sriov (s : State) (c : Nat) (x : Ctx) : (s.setCtx c x).sriov = s.sriov := rfl
@[simp] theorem State.setCtx_atomicOps (s : State) (c : Nat) (x : Ctx) : (s.setCtx c x).atomicOps = s.atomicOps := rfl
@[simp] theorem State.setCtx_keys (s : State) (c : Nat) (x : Ctx) : (s.setCtx c x).keys = s.keys := rfl
@[simp] theorem State.setCtx_kernelCounter (s : State) (c : Nat) (x : Ctx) : (s.setCtx c x).kernelCounter = s.kernelCounter := rfl
@[simp] theorem State.setCtx_firmwareCounter (s : State) (c : Nat) (x : Ctx) : (s.setCtx c x).firmwareCounter = s.firmwareCounter := rfl
@[simp] theorem State.setCtx_nonce (s : State) (c : Nat) (x : Ctx) : (s.setCtx c x).nonce = s.nonce := rfl
@[simp] theorem State.setCtx_journal (s : State) (c : Nat) (x : Ctx) : (s.setCtx c x).journal = s.journal := rfl
@[simp] theorem State.setCtx_fuses (s : State) (c : Nat) (x : Ctx) : (s.setCtx c x).fuses = s.fuses := rfl
@[simp] theorem State.setCtx_bootCount (s : State) (c : Nat) (x : Ctx) : (s.setCtx c x).bootCount = s.bootCount := rfl
@[simp] theorem State.setCtx_booted (s : State) (c : Nat) (x : Ctx) : (s.setCtx c x).booted = s.booted := rfl
@[simp] theorem State.setCtx_stopReported (s : State) (c : Nat) (x : Ctx) : (s.setCtx c x).stopReported = s.stopReported := rfl
@[simp] theorem State.setCtx_fwSlot (s : State) (c : Nat) (x : Ctx) : (s.setCtx c x).fwSlot = s.fwSlot := rfl
@[simp] theorem State.setCtx_fwVersions (s : State) (c : Nat) (x : Ctx) : (s.setCtx c x).fwVersions = s.fwVersions := rfl
@[simp] theorem State.setCtx_mallets (s : State) (c : Nat) (x : Ctx) : (s.setCtx c x).mallets = s.mallets := rfl
@[simp] theorem State.setCtx_pbudget (s : State) (c : Nat) (x : Ctx) : (s.setCtx c x).pbudget = s.pbudget := rfl
@[simp] theorem State.setCtx_counters (s : State) (c : Nat) (x : Ctx) : (s.setCtx c x).counters = s.counters := rfl
@[simp] theorem State.setCtx_frameErrors (s : State) (c : Nat) (x : Ctx) : (s.setCtx c x).frameErrors = s.frameErrors := rfl
@[simp] theorem State.setCtx_reports (s : State) (c : Nat) (x : Ctx) : (s.setCtx c x).reports = s.reports := rfl
@[simp] theorem State.setCtx_pkg (s : State) (c : Nat) (x : Ctx) : (s.setCtx c x).pkg = s.pkg := rfl
@[simp] theorem State.setCtx_ports (s : State) (c : Nat) (x : Ctx) : (s.setCtx c x).ports = s.ports := rfl
@[simp] theorem State.setCtx_unreachable (s : State) (c : Nat) (x : Ctx) : (s.setCtx c x).unreachable = s.unreachable := rfl
@[simp] theorem State.setCtx_merge (s : State) (c : Nat) (x : Ctx) : (s.setCtx c x).merge = s.merge := rfl
@[simp] theorem State.setCtx_mergeOut (s : State) (c : Nat) (x : Ctx) : (s.setCtx c x).mergeOut = s.mergeOut := rfl
@[simp] theorem State.setCtx_gangs (s : State) (c : Nat) (x : Ctx) : (s.setCtx c x).gangs = s.gangs := rfl
@[simp] theorem State.setCtx_hotDies (s : State) (c : Nat) (x : Ctx) : (s.setCtx c x).hotDies = s.hotDies := rfl

@[simp] theorem State.setBarrier_cur (s : State) (k : Nat) (b : Barrier) : (s.setBarrier k b).cur = s.cur := rfl
@[simp] theorem State.setBarrier_inputs (s : State) (k : Nat) (b : Barrier) : (s.setBarrier k b).inputs = s.inputs := rfl
@[simp] theorem State.setBarrier_free (s : State) (k : Nat) (b : Barrier) : (s.setBarrier k b).free = s.free := rfl
@[simp] theorem State.setBarrier_groups (s : State) (k : Nat) (b : Barrier) : (s.setBarrier k b).groups = s.groups := rfl
@[simp] theorem State.setBarrier_blocks (s : State) (k : Nat) (b : Barrier) : (s.setBarrier k b).blocks = s.blocks := rfl
@[simp] theorem State.setBarrier_launches (s : State) (k : Nat) (b : Barrier) : (s.setBarrier k b).launches = s.launches := rfl
@[simp] theorem State.setBarrier_contexts (s : State) (k : Nat) (b : Barrier) : (s.setBarrier k b).contexts = s.contexts := rfl
@[simp] theorem State.setBarrier_queues (s : State) (k : Nat) (b : Barrier) : (s.setBarrier k b).queues = s.queues := rfl
@[simp] theorem State.setBarrier_cores (s : State) (k : Nat) (b : Barrier) : (s.setBarrier k b).cores = s.cores := rfl
@[simp] theorem State.setBarrier_clusters (s : State) (k : Nat) (b : Barrier) : (s.setBarrier k b).clusters = s.clusters := rfl
@[simp] theorem State.setBarrier_ops (s : State) (k : Nat) (b : Barrier) : (s.setBarrier k b).ops = s.ops := rfl
@[simp] theorem State.setBarrier_units (s : State) (k : Nat) (b : Barrier) : (s.setBarrier k b).units = s.units := rfl
@[simp] theorem State.setBarrier_trans (s : State) (k : Nat) (b : Barrier) : (s.setBarrier k b).trans = s.trans := rfl
@[simp] theorem State.setBarrier_domains (s : State) (k : Nat) (b : Barrier) : (s.setBarrier k b).domains = s.domains := rfl
@[simp] theorem State.setBarrier_mem (s : State) (k : Nat) (b : Barrier) : (s.setBarrier k b).mem = s.mem := rfl
@[simp] theorem State.setBarrier_poison (s : State) (k : Nat) (b : Barrier) : (s.setBarrier k b).poison = s.poison := rfl
@[simp] theorem State.setBarrier_hist (s : State) (k : Nat) (b : Barrier) : (s.setBarrier k b).hist = s.hist := rfl
@[simp] theorem State.setBarrier_rels (s : State) (k : Nat) (b : Barrier) : (s.setBarrier k b).rels = s.rels := rfl
@[simp] theorem State.setBarrier_nextSeq (s : State) (k : Nat) (b : Barrier) : (s.setBarrier k b).nextSeq = s.nextSeq := rfl
@[simp] theorem State.setBarrier_nextSid (s : State) (k : Nat) (b : Barrier) : (s.setBarrier k b).nextSid = s.nextSid := rfl
@[simp] theorem State.setBarrier_tlb (s : State) (k : Nat) (b : Barrier) : (s.setBarrier k b).tlb = s.tlb := rfl
@[simp] theorem State.setBarrier_frames (s : State) (k : Nat) (b : Barrier) : (s.setBarrier k b).frames = s.frames := rfl
@[simp] theorem State.setBarrier_tick (s : State) (k : Nat) (b : Barrier) : (s.setBarrier k b).tick = s.tick := rfl
@[simp] theorem State.setBarrier_mailboxes (s : State) (k : Nat) (b : Barrier) : (s.setBarrier k b).mailboxes = s.mailboxes := rfl
@[simp] theorem State.setBarrier_msix (s : State) (k : Nat) (b : Barrier) : (s.setBarrier k b).msix = s.msix := rfl
@[simp] theorem State.setBarrier_routes (s : State) (k : Nat) (b : Barrier) : (s.setBarrier k b).routes = s.routes := rfl
@[simp] theorem State.setBarrier_sriov (s : State) (k : Nat) (b : Barrier) : (s.setBarrier k b).sriov = s.sriov := rfl
@[simp] theorem State.setBarrier_atomicOps (s : State) (k : Nat) (b : Barrier) : (s.setBarrier k b).atomicOps = s.atomicOps := rfl
@[simp] theorem State.setBarrier_keys (s : State) (k : Nat) (b : Barrier) : (s.setBarrier k b).keys = s.keys := rfl
@[simp] theorem State.setBarrier_kernelCounter (s : State) (k : Nat) (b : Barrier) : (s.setBarrier k b).kernelCounter = s.kernelCounter := rfl
@[simp] theorem State.setBarrier_firmwareCounter (s : State) (k : Nat) (b : Barrier) : (s.setBarrier k b).firmwareCounter = s.firmwareCounter := rfl
@[simp] theorem State.setBarrier_nonce (s : State) (k : Nat) (b : Barrier) : (s.setBarrier k b).nonce = s.nonce := rfl
@[simp] theorem State.setBarrier_journal (s : State) (k : Nat) (b : Barrier) : (s.setBarrier k b).journal = s.journal := rfl
@[simp] theorem State.setBarrier_fuses (s : State) (k : Nat) (b : Barrier) : (s.setBarrier k b).fuses = s.fuses := rfl
@[simp] theorem State.setBarrier_bootCount (s : State) (k : Nat) (b : Barrier) : (s.setBarrier k b).bootCount = s.bootCount := rfl
@[simp] theorem State.setBarrier_booted (s : State) (k : Nat) (b : Barrier) : (s.setBarrier k b).booted = s.booted := rfl
@[simp] theorem State.setBarrier_stopReported (s : State) (k : Nat) (b : Barrier) : (s.setBarrier k b).stopReported = s.stopReported := rfl
@[simp] theorem State.setBarrier_fwSlot (s : State) (k : Nat) (b : Barrier) : (s.setBarrier k b).fwSlot = s.fwSlot := rfl
@[simp] theorem State.setBarrier_fwVersions (s : State) (k : Nat) (b : Barrier) : (s.setBarrier k b).fwVersions = s.fwVersions := rfl
@[simp] theorem State.setBarrier_mallets (s : State) (k : Nat) (b : Barrier) : (s.setBarrier k b).mallets = s.mallets := rfl
@[simp] theorem State.setBarrier_pbudget (s : State) (k : Nat) (b : Barrier) : (s.setBarrier k b).pbudget = s.pbudget := rfl
@[simp] theorem State.setBarrier_counters (s : State) (k : Nat) (b : Barrier) : (s.setBarrier k b).counters = s.counters := rfl
@[simp] theorem State.setBarrier_frameErrors (s : State) (k : Nat) (b : Barrier) : (s.setBarrier k b).frameErrors = s.frameErrors := rfl
@[simp] theorem State.setBarrier_reports (s : State) (k : Nat) (b : Barrier) : (s.setBarrier k b).reports = s.reports := rfl
@[simp] theorem State.setBarrier_pkg (s : State) (k : Nat) (b : Barrier) : (s.setBarrier k b).pkg = s.pkg := rfl
@[simp] theorem State.setBarrier_ports (s : State) (k : Nat) (b : Barrier) : (s.setBarrier k b).ports = s.ports := rfl
@[simp] theorem State.setBarrier_unreachable (s : State) (k : Nat) (b : Barrier) : (s.setBarrier k b).unreachable = s.unreachable := rfl
@[simp] theorem State.setBarrier_merge (s : State) (k : Nat) (b : Barrier) : (s.setBarrier k b).merge = s.merge := rfl
@[simp] theorem State.setBarrier_mergeOut (s : State) (k : Nat) (b : Barrier) : (s.setBarrier k b).mergeOut = s.mergeOut := rfl
@[simp] theorem State.setBarrier_gangs (s : State) (k : Nat) (b : Barrier) : (s.setBarrier k b).gangs = s.gangs := rfl
@[simp] theorem State.setBarrier_hotDies (s : State) (k : Nat) (b : Barrier) : (s.setBarrier k b).hotDies = s.hotDies := rfl

@[simp] theorem State.homeWrite_cur (s : State) (a : Nat) (bs : List MByte) : (s.homeWrite a bs).cur = s.cur := rfl
@[simp] theorem State.homeWrite_inputs (s : State) (a : Nat) (bs : List MByte) : (s.homeWrite a bs).inputs = s.inputs := rfl
@[simp] theorem State.homeWrite_free (s : State) (a : Nat) (bs : List MByte) : (s.homeWrite a bs).free = s.free := rfl
@[simp] theorem State.homeWrite_groups (s : State) (a : Nat) (bs : List MByte) : (s.homeWrite a bs).groups = s.groups := rfl
@[simp] theorem State.homeWrite_blocks (s : State) (a : Nat) (bs : List MByte) : (s.homeWrite a bs).blocks = s.blocks := rfl
@[simp] theorem State.homeWrite_launches (s : State) (a : Nat) (bs : List MByte) : (s.homeWrite a bs).launches = s.launches := rfl
@[simp] theorem State.homeWrite_contexts (s : State) (a : Nat) (bs : List MByte) : (s.homeWrite a bs).contexts = s.contexts := rfl
@[simp] theorem State.homeWrite_queues (s : State) (a : Nat) (bs : List MByte) : (s.homeWrite a bs).queues = s.queues := rfl
@[simp] theorem State.homeWrite_cores (s : State) (a : Nat) (bs : List MByte) : (s.homeWrite a bs).cores = s.cores := rfl
@[simp] theorem State.homeWrite_clusters (s : State) (a : Nat) (bs : List MByte) : (s.homeWrite a bs).clusters = s.clusters := rfl
@[simp] theorem State.homeWrite_barriers (s : State) (a : Nat) (bs : List MByte) : (s.homeWrite a bs).barriers = s.barriers := rfl
@[simp] theorem State.homeWrite_ops (s : State) (a : Nat) (bs : List MByte) : (s.homeWrite a bs).ops = s.ops := rfl
@[simp] theorem State.homeWrite_units (s : State) (a : Nat) (bs : List MByte) : (s.homeWrite a bs).units = s.units := rfl
@[simp] theorem State.homeWrite_trans (s : State) (a : Nat) (bs : List MByte) : (s.homeWrite a bs).trans = s.trans := rfl
@[simp] theorem State.homeWrite_domains (s : State) (a : Nat) (bs : List MByte) : (s.homeWrite a bs).domains = s.domains := rfl
@[simp] theorem State.homeWrite_hist (s : State) (a : Nat) (bs : List MByte) : (s.homeWrite a bs).hist = s.hist := rfl
@[simp] theorem State.homeWrite_rels (s : State) (a : Nat) (bs : List MByte) : (s.homeWrite a bs).rels = s.rels := rfl
@[simp] theorem State.homeWrite_nextSeq (s : State) (a : Nat) (bs : List MByte) : (s.homeWrite a bs).nextSeq = s.nextSeq := rfl
@[simp] theorem State.homeWrite_nextSid (s : State) (a : Nat) (bs : List MByte) : (s.homeWrite a bs).nextSid = s.nextSid := rfl
@[simp] theorem State.homeWrite_tlb (s : State) (a : Nat) (bs : List MByte) : (s.homeWrite a bs).tlb = s.tlb := rfl
@[simp] theorem State.homeWrite_tick (s : State) (a : Nat) (bs : List MByte) : (s.homeWrite a bs).tick = s.tick := rfl
@[simp] theorem State.homeWrite_mailboxes (s : State) (a : Nat) (bs : List MByte) : (s.homeWrite a bs).mailboxes = s.mailboxes := rfl
@[simp] theorem State.homeWrite_msix (s : State) (a : Nat) (bs : List MByte) : (s.homeWrite a bs).msix = s.msix := rfl
@[simp] theorem State.homeWrite_routes (s : State) (a : Nat) (bs : List MByte) : (s.homeWrite a bs).routes = s.routes := rfl
@[simp] theorem State.homeWrite_sriov (s : State) (a : Nat) (bs : List MByte) : (s.homeWrite a bs).sriov = s.sriov := rfl
@[simp] theorem State.homeWrite_atomicOps (s : State) (a : Nat) (bs : List MByte) : (s.homeWrite a bs).atomicOps = s.atomicOps := rfl
@[simp] theorem State.homeWrite_keys (s : State) (a : Nat) (bs : List MByte) : (s.homeWrite a bs).keys = s.keys := rfl
@[simp] theorem State.homeWrite_kernelCounter (s : State) (a : Nat) (bs : List MByte) : (s.homeWrite a bs).kernelCounter = s.kernelCounter := rfl
@[simp] theorem State.homeWrite_firmwareCounter (s : State) (a : Nat) (bs : List MByte) : (s.homeWrite a bs).firmwareCounter = s.firmwareCounter := rfl
@[simp] theorem State.homeWrite_nonce (s : State) (a : Nat) (bs : List MByte) : (s.homeWrite a bs).nonce = s.nonce := rfl
@[simp] theorem State.homeWrite_journal (s : State) (a : Nat) (bs : List MByte) : (s.homeWrite a bs).journal = s.journal := rfl
@[simp] theorem State.homeWrite_fuses (s : State) (a : Nat) (bs : List MByte) : (s.homeWrite a bs).fuses = s.fuses := rfl
@[simp] theorem State.homeWrite_bootCount (s : State) (a : Nat) (bs : List MByte) : (s.homeWrite a bs).bootCount = s.bootCount := rfl
@[simp] theorem State.homeWrite_booted (s : State) (a : Nat) (bs : List MByte) : (s.homeWrite a bs).booted = s.booted := rfl
@[simp] theorem State.homeWrite_stopReported (s : State) (a : Nat) (bs : List MByte) : (s.homeWrite a bs).stopReported = s.stopReported := rfl
@[simp] theorem State.homeWrite_fwSlot (s : State) (a : Nat) (bs : List MByte) : (s.homeWrite a bs).fwSlot = s.fwSlot := rfl
@[simp] theorem State.homeWrite_fwVersions (s : State) (a : Nat) (bs : List MByte) : (s.homeWrite a bs).fwVersions = s.fwVersions := rfl
@[simp] theorem State.homeWrite_mallets (s : State) (a : Nat) (bs : List MByte) : (s.homeWrite a bs).mallets = s.mallets := rfl
@[simp] theorem State.homeWrite_pbudget (s : State) (a : Nat) (bs : List MByte) : (s.homeWrite a bs).pbudget = s.pbudget := rfl
@[simp] theorem State.homeWrite_counters (s : State) (a : Nat) (bs : List MByte) : (s.homeWrite a bs).counters = s.counters := rfl
@[simp] theorem State.homeWrite_frameErrors (s : State) (a : Nat) (bs : List MByte) : (s.homeWrite a bs).frameErrors = s.frameErrors := rfl
@[simp] theorem State.homeWrite_reports (s : State) (a : Nat) (bs : List MByte) : (s.homeWrite a bs).reports = s.reports := rfl
@[simp] theorem State.homeWrite_pkg (s : State) (a : Nat) (bs : List MByte) : (s.homeWrite a bs).pkg = s.pkg := rfl
@[simp] theorem State.homeWrite_ports (s : State) (a : Nat) (bs : List MByte) : (s.homeWrite a bs).ports = s.ports := rfl
@[simp] theorem State.homeWrite_unreachable (s : State) (a : Nat) (bs : List MByte) : (s.homeWrite a bs).unreachable = s.unreachable := rfl
@[simp] theorem State.homeWrite_merge (s : State) (a : Nat) (bs : List MByte) : (s.homeWrite a bs).merge = s.merge := rfl
@[simp] theorem State.homeWrite_mergeOut (s : State) (a : Nat) (bs : List MByte) : (s.homeWrite a bs).mergeOut = s.mergeOut := rfl
@[simp] theorem State.homeWrite_gangs (s : State) (a : Nat) (bs : List MByte) : (s.homeWrite a bs).gangs = s.gangs := rfl
@[simp] theorem State.homeWrite_hotDies (s : State) (a : Nat) (bs : List MByte) : (s.homeWrite a bs).hotDies = s.hotDies := rfl

@[simp] theorem State.draw_cur (s : State) : s.draw.2.cur = s.cur := rfl
@[simp] theorem State.draw_inputs (s : State) : s.draw.2.inputs = s.inputs := rfl
@[simp] theorem State.draw_groups (s : State) : s.draw.2.groups = s.groups := rfl
@[simp] theorem State.draw_blocks (s : State) : s.draw.2.blocks = s.blocks := rfl
@[simp] theorem State.draw_launches (s : State) : s.draw.2.launches = s.launches := rfl
@[simp] theorem State.draw_contexts (s : State) : s.draw.2.contexts = s.contexts := rfl
@[simp] theorem State.draw_queues (s : State) : s.draw.2.queues = s.queues := rfl
@[simp] theorem State.draw_cores (s : State) : s.draw.2.cores = s.cores := rfl
@[simp] theorem State.draw_clusters (s : State) : s.draw.2.clusters = s.clusters := rfl
@[simp] theorem State.draw_barriers (s : State) : s.draw.2.barriers = s.barriers := rfl
@[simp] theorem State.draw_ops (s : State) : s.draw.2.ops = s.ops := rfl
@[simp] theorem State.draw_units (s : State) : s.draw.2.units = s.units := rfl
@[simp] theorem State.draw_trans (s : State) : s.draw.2.trans = s.trans := rfl
@[simp] theorem State.draw_domains (s : State) : s.draw.2.domains = s.domains := rfl
@[simp] theorem State.draw_mem (s : State) : s.draw.2.mem = s.mem := rfl
@[simp] theorem State.draw_poison (s : State) : s.draw.2.poison = s.poison := rfl
@[simp] theorem State.draw_hist (s : State) : s.draw.2.hist = s.hist := rfl
@[simp] theorem State.draw_rels (s : State) : s.draw.2.rels = s.rels := rfl
@[simp] theorem State.draw_nextSeq (s : State) : s.draw.2.nextSeq = s.nextSeq := rfl
@[simp] theorem State.draw_nextSid (s : State) : s.draw.2.nextSid = s.nextSid := rfl
@[simp] theorem State.draw_tlb (s : State) : s.draw.2.tlb = s.tlb := rfl
@[simp] theorem State.draw_frames (s : State) : s.draw.2.frames = s.frames := rfl
@[simp] theorem State.draw_tick (s : State) : s.draw.2.tick = s.tick := rfl
@[simp] theorem State.draw_mailboxes (s : State) : s.draw.2.mailboxes = s.mailboxes := rfl
@[simp] theorem State.draw_msix (s : State) : s.draw.2.msix = s.msix := rfl
@[simp] theorem State.draw_routes (s : State) : s.draw.2.routes = s.routes := rfl
@[simp] theorem State.draw_sriov (s : State) : s.draw.2.sriov = s.sriov := rfl
@[simp] theorem State.draw_atomicOps (s : State) : s.draw.2.atomicOps = s.atomicOps := rfl
@[simp] theorem State.draw_keys (s : State) : s.draw.2.keys = s.keys := rfl
@[simp] theorem State.draw_kernelCounter (s : State) : s.draw.2.kernelCounter = s.kernelCounter := rfl
@[simp] theorem State.draw_firmwareCounter (s : State) : s.draw.2.firmwareCounter = s.firmwareCounter := rfl
@[simp] theorem State.draw_nonce (s : State) : s.draw.2.nonce = s.nonce := rfl
@[simp] theorem State.draw_journal (s : State) : s.draw.2.journal = s.journal := rfl
@[simp] theorem State.draw_fuses (s : State) : s.draw.2.fuses = s.fuses := rfl
@[simp] theorem State.draw_bootCount (s : State) : s.draw.2.bootCount = s.bootCount := rfl
@[simp] theorem State.draw_booted (s : State) : s.draw.2.booted = s.booted := rfl
@[simp] theorem State.draw_stopReported (s : State) : s.draw.2.stopReported = s.stopReported := rfl
@[simp] theorem State.draw_fwSlot (s : State) : s.draw.2.fwSlot = s.fwSlot := rfl
@[simp] theorem State.draw_fwVersions (s : State) : s.draw.2.fwVersions = s.fwVersions := rfl
@[simp] theorem State.draw_mallets (s : State) : s.draw.2.mallets = s.mallets := rfl
@[simp] theorem State.draw_pbudget (s : State) : s.draw.2.pbudget = s.pbudget := rfl
@[simp] theorem State.draw_counters (s : State) : s.draw.2.counters = s.counters := rfl
@[simp] theorem State.draw_frameErrors (s : State) : s.draw.2.frameErrors = s.frameErrors := rfl
@[simp] theorem State.draw_reports (s : State) : s.draw.2.reports = s.reports := rfl
@[simp] theorem State.draw_pkg (s : State) : s.draw.2.pkg = s.pkg := rfl
@[simp] theorem State.draw_ports (s : State) : s.draw.2.ports = s.ports := rfl
@[simp] theorem State.draw_unreachable (s : State) : s.draw.2.unreachable = s.unreachable := rfl
@[simp] theorem State.draw_merge (s : State) : s.draw.2.merge = s.merge := rfl
@[simp] theorem State.draw_mergeOut (s : State) : s.draw.2.mergeOut = s.mergeOut := rfl
@[simp] theorem State.draw_gangs (s : State) : s.draw.2.gangs = s.gangs := rfl
@[simp] theorem State.draw_hotDies (s : State) : s.draw.2.hotDies = s.hotDies := rfl

end Sys2Proof.Machine
end

