-- ==== Sys2Proof/Laws/Ops.lean ====
section
/-! SUPPORT. What the shared operations over registers, lanes and groups can do, each said once. -/

namespace Sys2Proof.Machine

/-! ### Groups -/

@[simp] theorem State.group_setGroup (s : State) (g : Nat) (x : Group) : (s.setGroup g x).group g = x := by
  simp [State.group, State.setGroup]

theorem State.group_setGroup_ne (s : State) {g h : Nat} (x : Group) (hne : h ≠ g) :
    (s.setGroup g x).group h = s.group h := by
  simp [State.group, State.setGroup, Tab.get, Tab.find?_put_ne _ _ hne]

@[simp] theorem State.setGroup_setGroup (s : State) (g : Nat) (x y : Group) :
    (s.setGroup g x).setGroup g y = s.setGroup g y := by
  simp [State.setGroup]

@[simp] theorem State.grp_setGrp (s : State) (x : Group) : (s.setGrp x).grp = x := by
  simp [State.grp, State.setGrp]

@[simp] theorem State.setGrp_setGrp (s : State) (x y : Group) : (s.setGrp x).setGrp y = s.setGrp y := by
  simp [State.setGrp]

@[simp] theorem State.th_setGrp (s : State) (x : Group) : (s.setGrp x).th = x.th := by simp [State.th]

@[simp] theorem State.core_setCore (s : State) (c : Nat) (x : Core) : (s.setCore c x).core c = x := by
  simp [State.core, State.setCore]

@[simp] theorem State.block_setBlock (s : State) (b : Nat) (x : Block) : (s.setBlock b x).block b = x := by
  simp [State.block, State.setBlock]

/-! ### What timing may add to a counter (R349) -/

theorem Group.owe_eq (x : Group) (i n : Nat) : x.owe i n = { x with perf := (x.owe i n).perf } := by
  unfold Group.owe Group.count
  split <;> rfl

/-- A group that waits keeps everything but its wait, and the counter that may have grown. -/
theorem State.waitHere_eq (s : State) (w : Wait) :
    ∃ p, s.waitHere w = s.setGrp { s.grp with wait := w, perf := p } := by
  unfold State.waitHere
  split
  · exact ⟨_, by rw [Group.owe_eq]⟩
  · exact ⟨s.grp.perf, rfl⟩

/-- Counting sector requests changes the counters of the executing group alone. -/
theorem State.countSectors_eq (s : State) (n : Nat) (load : Bool) :
    s.countSectors n load = s ∨ ∃ p, s.countSectors n load = s.setGrp { s.grp with perf := p } := by
  unfold State.countSectors
  split
  · exact .inl rfl
  · cases load
    · exact .inr ⟨_, rfl⟩
    · exact .inr ⟨_, by rw [if_pos rfl, Group.owe_eq]; rfl⟩

/-! ### Join points (R237, R331) -/

/-- A join point whose operations have no fault for the group joins them all. -/
theorem State.joinPoint_done {s s2 : State} {g : Nat} {os : List Nat} (h : s.joinAll g os = (none, s2)) :
    s.joinPoint g os = (.done, s2) := by
  simp [State.joinPoint, h]

theorem State.joinThen_done {s s2 : State} {os : List Nat} (k : State → State) (h : s.joinAll s.cur os = (none, s2)) :
    s.joinThen os k = k s2 := by
  simp [State.joinThen, State.joinPoint_done h]

/-- A fault at a join point is delivered outside a region, aborts all of RM in one, and stays pending where RM is empty. -/
theorem State.joinPoint_fault {s s2 : State} {g c : Nat} {va : BitVec 64} {os : List Nat}
    (h : s.joinAll g os = (some (c, va), s2)) :
    ((s.group g).region.depth = 0 → s.joinPoint g os = (.fault c va, s2))
    ∧ ((s.group g).region.depth ≠ 0 → (s.group g).region.rm ≠ 0 → s.joinPoint g os = (.abort c, s))
    ∧ ((s.group g).region.depth ≠ 0 → (s.group g).region.rm = 0 → (s.joinPoint g os).1 = .done) := by
  refine ⟨fun hd => ?_, fun hd hr => ?_, fun hd hr => ?_⟩
  · simp [State.joinPoint, h, hd]
  · simpa [State.joinPoint, h, hd] using hr
  · simp [State.joinPoint, h, hd, hr]

/-! ### Completion -/

theorem Group.completed_th (x : Group) (t : Thread) : ({ x with th := t } : Group).completed = { x.completed with th := t } := by
  unfold Group.completed
  repeat' split
  all_goals first | rfl | contradiction

/-- Advancing changes the executing group's PC, and counts the instruction. -/
theorem State.advance_went (s : State) (n : Nat) : s.advance n = s.went n s.th.regs := rfl

/-- Writing registers and advancing. -/
theorem State.setRegs_advance (s : State) (r : Regs) (n : Nat) : (s.setRegs r).advance n = s.went n r := by
  simp only [State.advance, State.jump, State.setRegs, State.setTh, State.grp_setGrp, State.th_setGrp, State.setGrp_setGrp,
    State.went, Group.completed_th]

/-- With no active lane only the PC moves (R8). -/
theorem State.perform_none {s : State} {g : Guard} (n : Nat) (k : Mask → State → State) (h : s.th.act g = 0) :
    s.perform g n k = .next (s.went n s.th.regs) := by
  unfold State.perform; rw [if_pos h, State.advance_went]

/-- With an active lane the instruction's own effect comes about. -/
theorem State.perform_some {s : State} {g : Guard} (n : Nat) (k : Mask → State → State) (h : s.th.act g ≠ 0) :
    s.perform g n k = .next (k (s.th.act g) s) := by
  unfold State.perform; rw [if_neg h]

/-- An instruction that R307 marks UNSUPPORTED, where a lane of RM is active, aborts all of RM, and is a commit point first if `point`. -/
theorem State.perform_orUnsupported {s s' : State} {g : Guard} (n : Nat) (k : Mask → State → State) (point : Bool)
    (h : s.th.act g &&& s.grp.rm ≠ 0) (hs : (if point then s.flush s.cur else s) = s') :
    s.perform g n (fun act s => s.orUnsupported act (k act) point) = .next (s'.setGrp (s'.grp.abortAll abUnsupported)) := by
  have hr : s.grp.inRegion (s.th.act g) = true := by simpa [Group.inRegion] using h
  rw [State.perform_some n _ (by rintro e; simp [e] at h)]
  simp only [State.orUnsupported, hr, if_true, hs]

/-- An instruction that only changes registers completes with them. -/
theorem State.performRegs_next (s : State) (g : Guard) (n : Nat) (k : Mask → Thread → Regs) :
    s.performRegs g n k = .next (s.went n (if s.th.act g = 0 then s.th.regs else k (s.th.act g) s.th)) := by
  unfold State.performRegs
  by_cases h : s.th.act g = 0
  · rw [State.perform_none n _ h, if_pos h]
  · rw [State.perform_some n _ h, if_neg h, State.setRegs_advance]

/-- A command that acts on a domain that is not there does nothing (R271). -/
theorem State.modDomain_absent {s : State} {d : Nat} (f : Domain → Domain) (h : s.domains.find? d = none) : s.modDomain d f = s := by
  simp [State.modDomain, h]

/-- A domain that is there takes the change (R271). -/
theorem State.modDomain_domain {s : State} {d : Nat} (f : Domain → Domain) (h : (s.domains.find? d).isSome = true) :
    (s.modDomain d f).domain d = f (s.domain d) := by
  simp [State.modDomain, h, State.domain]

/-- An element of a queue that has been written stays as it is, with the poison that it has met since (R260, R377). -/
theorem RQueue.write_written {r : RQueue} {i : Nat} {e : QElem} (val : Word) (poison : Bool) (h : r.elems.find? i = some e)
    (hw : e.written = true) : r.write i val poison = r := by
  simp [RQueue.write, h, hw]

/-! ### Register writes -/

theorem mem_lanesOf {m : Mask} {l : Nat} : l ∈ lanesOf m ↔ l < 32 ∧ m.getLsbD l = true := by
  simp [lanesOf]

theorem Regs.setVec_s (r : Regs) (i l : Nat) (x : Word) : (r.setVec i l x).s = r.s := by
  unfold Regs.setVec; split <;> rfl

theorem Regs.setVec_p (r : Regs) (i l : Nat) (x : Word) : (r.setVec i l x).p = r.p := by
  unfold Regs.setVec; split <;> rfl

theorem Regs.vec_setVec (r : Regs) {i l j k : Nat} (x : Word) (hl : l < 32) (hk : k < 32) :
    (r.setVec i l x).vec j k = if j = i ∧ k = l ∧ i ≠ 16383 then x else r.vec j k := by
  unfold Regs.setVec Regs.vec
  by_cases hi : i = 16383
  · simp [hi]
  · by_cases hj : j = 16383
    · have h1 : ¬(j = i ∧ k = l ∧ i ≠ 16383) := fun h => hi (h.1 ▸ hj)
      rw [if_neg hi, if_pos hj, if_neg h1, if_pos hj]
    · rw [if_neg hi, if_neg hj, Tab.get_put]
      by_cases h : j = i ∧ k = l
      · obtain ⟨rfl, rfl⟩ := h
        rw [if_pos rfl, if_pos ⟨rfl, rfl, hi⟩]
      · have h1 : ¬(32 * j + k = 32 * i + l) := by omega
        have h2 : ¬(j = i ∧ k = l ∧ i ≠ 16383) := fun x => h ⟨x.1, x.2.1⟩
        rw [if_neg h1, if_neg h2, if_neg hj]

theorem Regs.putVec_wrote (r : Regs) (d : Nat) (act : Mask) (g : Nat → Nat) :
    WroteVec r (r.putVec d act fun l => BitVec.ofNat 32 (g l)) d 32 act g := by
  have key : ∀ (ls : List Nat) (q : Regs), (∀ l ∈ ls, l < 32) →
      let q' := ls.foldl (fun r l => r.setVec d l (BitVec.ofNat 32 (g l))) q
      q'.s = q.s ∧ q'.p = q.p ∧ ∀ i l, l < 32 →
        q'.vec i l = if i = d ∧ l ∈ ls ∧ d ≠ 16383 then BitVec.ofNat 32 (g l) else q.vec i l := by
    intro ls
    induction ls with
    | nil => intro q _; simp
    | cons a t ih =>
      intro q hq
      have ha : a < 32 := hq a (List.mem_cons_self ..)
      obtain ⟨h1, h2, h3⟩ := ih (q.setVec d a (BitVec.ofNat 32 (g a))) fun l hl => hq l (List.mem_cons_of_mem _ hl)
      refine ⟨h1.trans (Regs.setVec_s ..), h2.trans (Regs.setVec_p ..), fun i l hl => ?_⟩
      rw [List.foldl_cons, h3 i l hl, Regs.vec_setVec q _ ha hl]
      by_cases hd : d = 16383
      · simp [hd]
      · by_cases hi : i = d
        · subst hi
          by_cases hm : l ∈ t
          · simp [hm, hd]
          · by_cases hla : l = a
            · subst hla; simp [hd, hm]
            · simp [hm, hla]
        · simp [hi]
  obtain ⟨h1, h2, h3⟩ := key (lanesOf act) r fun l hl => (mem_lanesOf.1 hl).1
  refine ⟨h1, h2, fun i l hl => ?_⟩
  have := h3 i l hl
  unfold Regs.putVec
  rw [this]
  simp only [mem_lanesOf, hl, true_and]
  by_cases hd : d = 16383
  · simp [hd]
  · by_cases ha : act.getLsbD l = true
    · by_cases hi : i = d
      · subst hi; simp [ha, hd]
      · simp [hi]
    · simp [ha]

theorem Regs.setVec64_s (r : Regs) (i l : Nat) (x : DWord) : (r.setVec64 i l x).s = r.s := by
  unfold Regs.setVec64; split
  · rfl
  · rw [Regs.setVec_s, Regs.setVec_s]

theorem Regs.setVec64_p (r : Regs) (i l : Nat) (x : DWord) : (r.setVec64 i l x).p = r.p := by
  unfold Regs.setVec64; split
  · rfl
  · rw [Regs.setVec_p, Regs.setVec_p]

theorem low_ofNat (x : Nat) : (BitVec.ofNat 64 x).setWidth 32 = BitVec.ofNat 32 x := by
  apply BitVec.eq_of_toNat_eq; simp

theorem high_ofNat (x : Nat) : (BitVec.ofNat 64 x).extractLsb' 32 32 = BitVec.ofNat 32 (x / 2 ^ 32) := by
  apply BitVec.eq_of_toNat_eq
  simp only [BitVec.extractLsb'_toNat, BitVec.toNat_ofNat, Nat.shiftRight_eq_div_pow]
  omega

theorem Regs.vec_setVec64 (r : Regs) {i l j k : Nat} (x : Nat) (hl : l < 32) (hk : k < 32) :
    (r.setVec64 i l (BitVec.ofNat 64 x)).vec j k =
      if k = l ∧ i ≠ 16383 ∧ j ≠ 16383 ∧ (j = i ∨ j = i + 1) then
        (if j = i then BitVec.ofNat 32 x else BitVec.ofNat 32 (x / 2 ^ 32))
      else r.vec j k := by
  unfold Regs.setVec64
  by_cases hi : i = 16383
  · simp [hi]
  · rw [if_neg hi, Regs.vec_setVec _ _ hl hk, Regs.vec_setVec _ _ hl hk, low_ofNat, high_ofNat]
    by_cases hj : j = 16383
    · subst hj
      have h1 : ¬(16383 = i) := fun h => hi h.symm
      by_cases h2 : 16383 = i + 1
      · have : ¬(i + 1 ≠ 16383) := by omega
        simp [h1, this]
      · simp [h1, h2]
    · by_cases h1 : j = i
      · subst h1
        by_cases hkl : k = l
        · simp [hkl, hi]
        · simp [hkl]
      · by_cases h2 : j = i + 1
        · subst h2
          by_cases hkl : k = l
          · simp [hkl, hi, hj]
          · simp [hkl]
        · simp [h1, h2]

theorem Regs.putVec64_wrote (r : Regs) (d : Nat) (act : Mask) (g : Nat → Nat) :
    WroteVec r (r.putVec64 d act fun l => BitVec.ofNat 64 (g l)) d 64 act g := by
  have key : ∀ (ls : List Nat) (q : Regs), (∀ l ∈ ls, l < 32) →
      let q' := ls.foldl (fun r l => r.setVec64 d l (BitVec.ofNat 64 (g l))) q
      q'.s = q.s ∧ q'.p = q.p ∧ ∀ i l, l < 32 →
        q'.vec i l = if l ∈ ls ∧ d ≠ 16383 ∧ i ≠ 16383 ∧ (i = d ∨ i = d + 1) then
          (if i = d then BitVec.ofNat 32 (g l) else BitVec.ofNat 32 (g l / 2 ^ 32)) else q.vec i l := by
    intro ls
    induction ls with
    | nil => intro q _; simp
    | cons a t ih =>
      intro q hq
      have ha : a < 32 := hq a (List.mem_cons_self ..)
      obtain ⟨h1, h2, h3⟩ := ih (q.setVec64 d a (BitVec.ofNat 64 (g a))) fun l hl => hq l (List.mem_cons_of_mem _ hl)
      refine ⟨h1.trans (Regs.setVec64_s ..), h2.trans (Regs.setVec64_p ..), fun i l hl => ?_⟩
      rw [List.foldl_cons, h3 i l hl, Regs.vec_setVec64 q _ ha hl]
      by_cases hc : d ≠ 16383 ∧ i ≠ 16383 ∧ (i = d ∨ i = d + 1)
      · by_cases hm : l ∈ t
        · simp [hm, hc]
        · by_cases hla : l = a
          · subst hla; simp [hc, hm]
          · simp [hm, hla]
      · simp [hc]
  obtain ⟨h1, h2, h3⟩ := key (lanesOf act) r fun l hl => (mem_lanesOf.1 hl).1
  refine ⟨h1, h2, fun i l hl => ?_⟩
  have := h3 i l hl
  unfold Regs.putVec64
  rw [this]
  simp only [mem_lanesOf, hl, true_and]
  by_cases hd : d = 16383
  · simp [hd]
  · by_cases hi : i = 16383
    · simp [hi]
    · by_cases ha : act.getLsbD l = true
      · by_cases h1 : i = d
        · subst h1; simp [ha, hd]
        · by_cases h2 : i = d + 1
          · subst h2; simp [ha, hd, hi]
          · simp [h1, h2]
      · simp [ha]

theorem WroteVec.of_width {r r' : Regs} {d w : Nat} {act : Mask} {g : Nat → Nat} (hw : w ≠ 64)
    (h : WroteVec r r' d 32 act g) : WroteVec r r' d w act g := by
  refine ⟨h.1, h.2.1, fun i l hl => ?_⟩
  rw [h.2.2 i l hl]
  simp [hw]

/-- The vector write of an arithmetic entry. -/
theorem Regs.putLanes_wrote (r : Regs) (d w : Nat) (act : Mask) (g : Nat → Nat) :
    WroteVec r (r.putLanes d w act g) d w act g := by
  unfold Regs.putLanes
  split
  · rename_i h; subst h; exact Regs.putVec64_wrote r d act g
  · rename_i h; exact (Regs.putVec_wrote r d act g).of_width h

/-- A vector write of words. -/
theorem Regs.putVec_words (r : Regs) (d : Nat) (act : Mask) (f : Nat → Word) :
    WroteVec r (r.putVec d act f) d 32 act fun l => (f l).toNat := by
  have := Regs.putVec_wrote r d act fun l => (f l).toNat
  simpa using this

theorem Regs.setScal_wrote (r : Regs) (d : Nat) (x : DWord) : WroteScal r (r.setScal d x) d x := by
  unfold Regs.setScal
  split
  · rename_i h
    refine ⟨rfl, rfl, fun i => ?_⟩
    by_cases hi : i = d
    · simp [hi, h]
    · simp [hi]
  · rename_i h
    refine ⟨rfl, rfl, fun i => ?_⟩
    unfold Regs.scal
    by_cases hi : i = 16383
    · simp [hi]
    · simp only [if_neg hi, Tab.get_put]
      by_cases h2 : i = d
      · rw [if_pos h2, if_pos ⟨h2, hi⟩]
      · rw [if_neg h2, if_neg fun x => h2 x.1]

theorem maskOf_getLsbD (f : Nat → Bool) {l : Nat} (hl : l < 32) : (maskOf f).getLsbD l = f l := by
  have key : ∀ (ls : List Nat) (m : Mask), (∀ j ∈ ls, j < 32) →
      (ls.foldl (fun m j => if f j then m ||| laneBit j else m) m).getLsbD l = (m.getLsbD l || (decide (l ∈ ls) && f l)) := by
    intro ls
    induction ls with
    | nil => intro m _; simp
    | cons a t ih =>
      intro m hm
      have ha := hm a (List.mem_cons_self ..)
      rw [List.foldl_cons, ih _ fun j hj => hm j (List.mem_cons_of_mem _ hj)]
      by_cases hfa : f a = true
      · rw [if_pos hfa]
        by_cases hla : l = a
        · subst hla; simp [laneBit, hl, hfa]
        · have h1 : (laneBit a).getLsbD l = false := by
            simp [laneBit, hl]
            intro h
            have : l - a ≠ 0 := by omega
            simp [this]
          simp [h1, hla]
      · rw [if_neg hfa]
        by_cases hla : l = a
        · subst hla; simp [hfa]
        · simp [hla]
  have := key (List.range 32) 0 (by simp)
  unfold maskOf
  rw [this]
  simp [hl]

theorem Regs.setPred_wrote (r : Regs) (d : Nat) (act : Mask) (g : Nat → Bool) :
    WrotePred r (r.setPred d act (maskOf g)) d act g := by
  unfold Regs.setPred
  split
  · rename_i h
    refine ⟨rfl, rfl, fun i l hl => ?_⟩
    have : ¬(i = d ∧ i ≠ 15 ∧ act.getLsbD l = true) := by rintro ⟨h1, h2, _⟩; exact h2 (h1.trans h)
    simp only [this, if_false]
  · rename_i h
    refine ⟨rfl, rfl, fun i l hl => ?_⟩
    unfold Regs.pred
    by_cases hi : i = 15
    · simp [hi]
    · simp only [hi, if_false, Tab.get_put]
      by_cases h2 : i = d
      · subst h2
        simp only [if_true, BitVec.getLsbD_or, BitVec.getLsbD_and, BitVec.getLsbD_not, maskOf_getLsbD _ hl]
        by_cases ha : act.getLsbD l = true
        · rw [if_pos ⟨trivial, hi, ha⟩, ha]; simp
        · have hf : act.getLsbD l = false := by simpa using ha
          rw [if_neg fun x => ha x.2.2, hf]; simp [hl]
      · simp [h2]

/-! ### Entries -/

/-- An arithmetic entry completes with its result (R8, R43, R57, R59). -/
theorem State.performAlu_done {i : Instr} {f : Alu} {w : Nat} {s : State} {g : Env → Nat → Nat}
    (h : exec i s = s.performAlu f w g) : AluDone i f w s g := by
  refine ⟨_, by rw [h, State.performAlu, State.performRegs_next], ?_⟩
  by_cases ha : s.th.act f.guard = 0
  · simp [ha]
  · by_cases hu : f.u = true
    · simp only [ha, if_false, hu, if_true]
      exact Regs.setScal_wrote _ _ _
    · simp only [ha, if_false, hu]
      exact Regs.putLanes_wrote _ _ _ _ _

/-- An entry that writes a predicate completes with its result (R62, R69). -/
theorem State.performPred_done {i : Instr} {f : Alu} {s : State} {g : Env → Nat → Bool}
    (h : exec i s = s.performPred f g) : PredDone i f s g := by
  refine ⟨_, by rw [h, State.performPred, State.performRegs_next], ?_⟩
  by_cases ha : s.th.act f.guard = 0
  · simp [ha]
  · by_cases hu : f.u = true
    · simp only [ha, if_false, hu, if_true]
      exact Regs.setScal_wrote _ _ _
    · simp only [ha, if_false, hu]
      exact Regs.setPred_wrote _ _ _ _

end Sys2Proof.Machine
end

