-- ==== Sys2Proof/Laws/PerInstr.lean ====
section
/-! SUPPORT. One lemma per constructor: how many words encode an instruction (R30). -/

namespace Sys2Proof.Laws.WordCount

/-- An instruction that has an encoding has one word, or two with its extension word (R30). -/
def Statement (i : Instr) : Prop := ∀ ws, encode i = some ws → ws.length = if i.ext then 2 else 1

/-- The statement holds of every instruction, by its raw fields. -/
theorem holds (i : Instr) : Statement i := by
  intro ws h
  unfold encode at h
  cases hr : i.toRaw with
  | none => rw [hr] at h; cases h
  | some r =>
    rw [hr] at h
    cases h
    simp only [Instr.ext, hr, Raw.words]
    split <;> simp_all

theorem iadd : ∀ f, Statement (.iadd f) := fun _ => holds _
theorem isub : ∀ f, Statement (.isub f) := fun _ => holds _
theorem imul : ∀ f, Statement (.imul f) := fun _ => holds _
theorem imulhi : ∀ f, Statement (.imulhi f) := fun _ => holds _
theorem imad : ∀ f, Statement (.imad f) := fun _ => holds _
theorem imin : ∀ f, Statement (.imin f) := fun _ => holds _
theorem imax : ∀ f, Statement (.imax f) := fun _ => holds _
theorem iabs : ∀ f, Statement (.iabs f) := fun _ => holds _
theorem and : ∀ f, Statement (.and f) := fun _ => holds _
theorem or : ∀ f, Statement (.or f) := fun _ => holds _
theorem xor : ∀ f, Statement (.xor f) := fun _ => holds _
theorem andn : ∀ f, Statement (.andn f) := fun _ => holds _
theorem shl : ∀ f, Statement (.shl f) := fun _ => holds _
theorem shr : ∀ f, Statement (.shr f) := fun _ => holds _
theorem sar : ∀ f, Statement (.sar f) := fun _ => holds _
theorem rot : ∀ f, Statement (.rot f) := fun _ => holds _
theorem popc : ∀ f, Statement (.popc f) := fun _ => holds _
theorem clz : ∀ f, Statement (.clz f) := fun _ => holds _
theorem brev : ∀ f, Statement (.brev f) := fun _ => holds _
theorem bfe : ∀ f, Statement (.bfe f) := fun _ => holds _
theorem bfi : ∀ f, Statement (.bfi f) := fun _ => holds _
theorem icmp : ∀ f, Statement (.icmp f) := fun _ => holds _
theorem sel : ∀ f, Statement (.sel f) := fun _ => holds _
theorem mov : ∀ f, Statement (.mov f) := fun _ => holds _
theorem movi : ∀ f, Statement (.movi f) := fun _ => holds _
theorem lea : ∀ f, Statement (.lea f) := fun _ => holds _
theorem iaddc : ∀ f, Statement (.iaddc f) := fun _ => holds _
theorem pset : ∀ f, Statement (.pset f) := fun _ => holds _
theorem dp4 : ∀ f, Statement (.dp4 f) := fun _ => holds _
theorem isad : ∀ f, Statement (.isad f) := fun _ => holds _
theorem fadd : ∀ f, Statement (.fadd f) := fun _ => holds _
theorem fsub : ∀ f, Statement (.fsub f) := fun _ => holds _
theorem fmul : ∀ f, Statement (.fmul f) := fun _ => holds _
theorem ffma : ∀ f, Statement (.ffma f) := fun _ => holds _
theorem fmin : ∀ f, Statement (.fmin f) := fun _ => holds _
theorem fmax : ∀ f, Statement (.fmax f) := fun _ => holds _
theorem frcp : ∀ f, Statement (.frcp f) := fun _ => holds _
theorem frsq : ∀ f, Statement (.frsq f) := fun _ => holds _
theorem fsqrt : ∀ f, Statement (.fsqrt f) := fun _ => holds _
theorem fex2 : ∀ f, Statement (.fex2 f) := fun _ => holds _
theorem flg2 : ∀ f, Statement (.flg2 f) := fun _ => holds _
theorem fsin : ∀ f, Statement (.fsin f) := fun _ => holds _
theorem fcos : ∀ f, Statement (.fcos f) := fun _ => holds _
theorem ftanh : ∀ f, Statement (.ftanh f) := fun _ => holds _
theorem fcmp : ∀ f, Statement (.fcmp f) := fun _ => holds _
theorem fclass : ∀ f, Statement (.fclass f) := fun _ => holds _
theorem frnd : ∀ f, Statement (.frnd f) := fun _ => holds _
theorem cvt : ∀ f, Statement (.cvt f) := fun _ => holds _
theorem fpack : ∀ f, Statement (.fpack f) := fun _ => holds _
theorem hpadd : ∀ f, Statement (.hpadd f) := fun _ => holds _
theorem hpmul : ∀ f, Statement (.hpmul f) := fun _ => holds _
theorem hpfma : ∀ f, Statement (.hpfma f) := fun _ => holds _
theorem add2 : ∀ f, Statement (.add2 f) := fun _ => holds _
theorem sub2 : ∀ f, Statement (.sub2 f) := fun _ => holds _
theorem max2 : ∀ f, Statement (.max2 f) := fun _ => holds _
theorem min2 : ∀ f, Statement (.min2 f) := fun _ => holds _
theorem sel2 : ∀ f, Statement (.sel2 f) := fun _ => holds _
theorem cmp2 : ∀ f, Statement (.cmp2 f) := fun _ => holds _
theorem shl2 : ∀ f, Statement (.shl2 f) := fun _ => holds _
theorem shr2 : ∀ f, Statement (.shr2 f) := fun _ => holds _
theorem shfl : ∀ f, Statement (.shfl f) := fun _ => holds _
theorem qswp : ∀ f, Statement (.qswp f) := fun _ => holds _
theorem qbcast : ∀ f, Statement (.qbcast f) := fun _ => holds _
theorem vote : ∀ f, Statement (.vote f) := fun _ => holds _
theorem gred : ∀ f, Statement (.gred f) := fun _ => holds _
theorem gscan : ∀ f, Statement (.gscan f) := fun _ => holds _
theorem lget : ∀ f, Statement (.lget f) := fun _ => holds _
theorem lput : ∀ f, Statement (.lput f) := fun _ => holds _
theorem matchOp : ∀ f, Statement (.matchOp f) := fun _ => holds _
theorem bra : ∀ f, Statement (.bra f) := fun _ => holds _
theorem brx : ∀ f, Statement (.brx f) := fun _ => holds _
theorem call : ∀ f, Statement (.call f) := fun _ => holds _
theorem callx : ∀ f, Statement (.callx f) := fun _ => holds _
theorem ret : ∀ f, Statement (.ret f) := fun _ => holds _
theorem endOp : ∀ f, Statement (.endOp f) := fun _ => holds _
theorem spawn : ∀ f, Statement (.spawn f) := fun _ => holds _
theorem yield : ∀ f, Statement (.yield f) := fun _ => holds _
theorem nop : ∀ f, Statement (.nop f) := fun _ => holds _
theorem trap : ∀ f, Statement (.trap f) := fun _ => holds _
theorem bkpt : ∀ f, Statement (.bkpt f) := fun _ => holds _
theorem npbeg : ∀ f, Statement (.npbeg f) := fun _ => holds _
theorem npend : ∀ f, Statement (.npend f) := fun _ => holds _
theorem ld : ∀ f, Statement (.ld f) := fun _ => holds _
theorem st : ∀ f, Statement (.st f) := fun _ => holds _
theorem lds : ∀ f, Statement (.lds f) := fun _ => holds _
theorem sts : ∀ f, Statement (.sts f) := fun _ => holds _
theorem ldc : ∀ f, Statement (.ldc f) := fun _ => holds _
theorem ldp : ∀ f, Statement (.ldp f) := fun _ => holds _
theorem stp : ∀ f, Statement (.stp f) := fun _ => holds _
theorem pref : ∀ f, Statement (.pref f) := fun _ => holds _
theorem evict : ∀ f, Statement (.evict f) := fun _ => holds _
theorem fence : ∀ f, Statement (.fence f) := fun _ => holds _
theorem atom : ∀ f, Statement (.atom f) := fun _ => holds _
theorem atoms : ∀ f, Statement (.atoms f) := fun _ => holds _
theorem atomp : ∀ f, Statement (.atomp f) := fun _ => holds _
theorem acas : ∀ f, Statement (.acas f) := fun _ => holds _
theorem acass : ∀ f, Statement (.acass f) := fun _ => holds _
theorem red : ∀ f, Statement (.red f) := fun _ => holds _
theorem reds : ∀ f, Statement (.reds f) := fun _ => holds _
theorem barv : ∀ f, Statement (.barv f) := fun _ => holds _
theorem barw : ∀ f, Statement (.barw f) := fun _ => holds _
theorem bars : ∀ f, Statement (.bars f) := fun _ => holds _
theorem barq : ∀ f, Statement (.barq f) := fun _ => holds _
theorem waitc : ∀ f, Statement (.waitc f) := fun _ => holds _
theorem cpy : ∀ f, Statement (.cpy f) := fun _ => holds _
theorem cpyx : ∀ f, Statement (.cpyx f) := fun _ => holds _
theorem cpya : ∀ f, Statement (.cpya f) := fun _ => holds _
theorem cpyd : ∀ f, Statement (.cpyd f) := fun _ => holds _
theorem chcfg : ∀ f, Statement (.chcfg f) := fun _ => holds _
theorem wmark : ∀ f, Statement (.wmark f) := fun _ => holds _
theorem yieldc : ∀ f, Statement (.yieldc f) := fun _ => holds _
theorem fsend : ∀ f, Statement (.fsend f) := fun _ => holds _
theorem spred : ∀ f, Statement (.spred f) := fun _ => holds _
theorem mma : ∀ f, Statement (.mma f) := fun _ => holds _
theorem tzero : ∀ f, Statement (.tzero f) := fun _ => holds _
theorem tload : ∀ f, Statement (.tload f) := fun _ => holds _
theorem tdrain : ∀ f, Statement (.tdrain f) := fun _ => holds _
theorem qpop : ∀ f, Statement (.qpop f) := fun _ => holds _
theorem qstore : ∀ f, Statement (.qstore f) := fun _ => holds _
theorem qsend : ∀ f, Statement (.qsend f) := fun _ => holds _
theorem qstat : ∀ f, Statement (.qstat f) := fun _ => holds _
theorem nput : ∀ f, Statement (.nput f) := fun _ => holds _
theorem nhash : ∀ f, Statement (.nhash f) := fun _ => holds _
theorem nget : ∀ f, Statement (.nget f) := fun _ => holds _
theorem nroot : ∀ f, Statement (.nroot f) := fun _ => holds _
theorem nswap : ∀ f, Statement (.nswap f) := fun _ => holds _
theorem npin : ∀ f, Statement (.npin f) := fun _ => holds _
theorem nunpin : ∀ f, Statement (.nunpin f) := fun _ => holds _
theorem nbind : ∀ f, Statement (.nbind f) := fun _ => holds _
theorem nunbind : ∀ f, Statement (.nunbind f) := fun _ => holds _
theorem ncopy : ∀ f, Statement (.ncopy f) := fun _ => holds _
theorem nstat : ∀ f, Statement (.nstat f) := fun _ => holds _
theorem tryOp : ∀ f, Statement (.tryOp f) := fun _ => holds _
theorem commit : ∀ f, Statement (.commit f) := fun _ => holds _
theorem abort : ∀ f, Statement (.abort f) := fun _ => holds _
theorem tstat : ∀ f, Statement (.tstat f) := fun _ => holds _
theorem sget : ∀ f, Statement (.sget f) := fun _ => holds _
theorem sset : ∀ f, Statement (.sset f) := fun _ => holds _
theorem rte : ∀ f, Statement (.rte f) := fun _ => holds _
theorem rteSkip : ∀ f, Statement (.rteSkip f) := fun _ => holds _
theorem rteEnd : ∀ f, Statement (.rteEnd f) := fun _ => holds _
theorem rteAbort : ∀ f, Statement (.rteAbort f) := fun _ => holds _
theorem perf : ∀ f, Statement (.perf f) := fun _ => holds _
theorem dbgLog : ∀ f, Statement (.dbgLog f) := fun _ => holds _
theorem dbgHalt : ∀ f, Statement (.dbgHalt f) := fun _ => holds _
theorem kick : ∀ fn q value, Statement (.kick fn q value) := fun _ _ _ => holds _
theorem schedulingTick : Statement .schedulingTick := holds _
theorem launchFetch : ∀ ctx q, Statement (.launchFetch ctx q) := fun _ _ => holds _
theorem launchWaitPoll : ∀ launch, Statement (.launchWaitPoll launch) := fun _ => holds _
theorem translationComplete : ∀ tr, Statement (.translationComplete tr) := fun _ => holds _
theorem peerTranslationTimeout : ∀ tr, Statement (.peerTranslationTimeout tr) := fun _ => holds _
theorem reoptimise : ∀ tr, Statement (.reoptimise tr) := fun _ => holds _
theorem blockPlace : ∀ launch, Statement (.blockPlace launch) := fun _ => holds _
theorem blockRetire : ∀ block, Statement (.blockRetire block) := fun _ => holds _
theorem gridComplete : ∀ launch, Statement (.gridComplete launch) := fun _ => holds _
theorem barrierPhaseComplete : ∀ bar, Statement (.barrierPhaseComplete bar) := fun _ => holds _
theorem waitcResume : ∀ grp, Statement (.waitcResume grp) := fun _ => holds _
theorem yieldResume : ∀ grp, Statement (.yieldResume grp) := fun _ => holds _
theorem yieldcResume : ∀ grp, Statement (.yieldcResume grp) := fun _ => holds _
theorem chcfgResume : ∀ grp, Statement (.chcfgResume grp) := fun _ => holds _
theorem endEngineJoin : ∀ grp, Statement (.endEngineJoin grp) := fun _ => holds _
theorem watermarkWaitEnd : ∀ grp, Statement (.watermarkWaitEnd grp) := fun _ => holds _
theorem copyOperationStart : ∀ block ch, Statement (.copyOperationStart block ch) := fun _ _ => holds _
theorem copyOperationComplete : ∀ op, Statement (.copyOperationComplete op) := fun _ => holds _
theorem arrayCommandStart : ∀ cluster, Statement (.arrayCommandStart cluster) := fun _ => holds _
theorem arrayCommandComplete : ∀ cluster, Statement (.arrayCommandComplete cluster) := fun _ => holds _
theorem qpopElementsReady : ∀ grp, Statement (.qpopElementsReady grp) := fun _ => holds _
theorem reclaim : ∀ child, Statement (.reclaim child) := fun _ => holds _
theorem speculationConflict : ∀ grp, Statement (.speculationConflict grp) := fun _ => holds _
theorem pageServiceResolve : ∀ grp pteAddr pte, Statement (.pageServiceResolve grp pteAddr pte) := fun _ _ _ => holds _
theorem pageServiceUnresolvable : ∀ grp, Statement (.pageServiceUnresolvable grp) := fun _ => holds _
theorem faultStallTimeout : ∀ core, Statement (.faultStallTimeout core) := fun _ => holds _
theorem nopreemptOverrun : ∀ grp, Statement (.nopreemptOverrun grp) := fun _ => holds _
theorem preemptionRequest : ∀ cluster, Statement (.preemptionRequest cluster) := fun _ => holds _
theorem preemption : ∀ cluster, Statement (.preemption cluster) := fun _ => holds _
theorem unitResume : ∀ unit, Statement (.unitResume unit) := fun _ => holds _
theorem timeSliceExpiry : ∀ ctx, Statement (.timeSliceExpiry ctx) := fun _ => holds _
theorem coreDrain : ∀ core why, Statement (.coreDrain core why) := fun _ _ => holds _
theorem laneFuse : ∀ core lane, Statement (.laneFuse core lane) := fun _ _ => holds _
theorem inFieldTest : ∀ cluster, Statement (.inFieldTest cluster) := fun _ => holds _
theorem inFieldTestEnd : ∀ cluster outcome, Statement (.inFieldTestEnd cluster outcome) := fun _ _ => holds _
theorem scrub : ∀ stack fixed bad, Statement (.scrub stack fixed bad) := fun _ _ _ => holds _
theorem phyRecalibration : ∀ stack, Statement (.phyRecalibration stack) := fun _ => holds _
theorem powerArbiterTick : ∀ clocks, Statement (.powerArbiterTick clocks) := fun _ => holds _
theorem malletCoreFailover : ∀ mallet, Statement (.malletCoreFailover mallet) := fun _ => holds _
theorem boot : ∀ tries, Statement (.boot tries) := fun _ => holds _
theorem bootStepTimeout : ∀ step, Statement (.bootStepTimeout step) := fun _ => holds _
theorem functionLevelReset : ∀ fn, Statement (.functionLevelReset fn) := fun _ => holds _
theorem ctxCreate : ∀ c, Statement (.ctxCreate c) := fun _ => holds _
theorem ctxDestroy : ∀ c, Statement (.ctxDestroy c) := fun _ => holds _
theorem ctxSet : ∀ c, Statement (.ctxSet c) := fun _ => holds _
theorem ctxRedundant : ∀ c, Statement (.ctxRedundant c) := fun _ => holds _
theorem queueEnable : ∀ c, Statement (.queueEnable c) := fun _ => holds _
theorem queueDisable : ∀ c, Statement (.queueDisable c) := fun _ => holds _
theorem queueClearErr : ∀ c, Statement (.queueClearErr c) := fun _ => holds _
theorem tlbInval : ∀ c, Statement (.tlbInval c) := fun _ => holds _
theorem fgSet : ∀ c, Statement (.fgSet c) := fun _ => holds _
theorem domainCreate : ∀ c, Statement (.domainCreate c) := fun _ => holds _
theorem domainGrow : ∀ c, Statement (.domainGrow c) := fun _ => holds _
theorem domainDestroy : ∀ c, Statement (.domainDestroy c) := fun _ => holds _
theorem trdomSet : ∀ c, Statement (.trdomSet c) := fun _ => holds _
theorem sliceTable : ∀ c, Statement (.sliceTable c) := fun _ => holds _
theorem sliceAbort : ∀ c, Statement (.sliceAbort c) := fun _ => holds _
theorem keyAdd : ∀ c, Statement (.keyAdd c) := fun _ => holds _
theorem keyRemove : ∀ c, Statement (.keyRemove c) := fun _ => holds _
theorem counterSet : ∀ c, Statement (.counterSet c) := fun _ => holds _
theorem fwLoad : ∀ c, Statement (.fwLoad c) := fun _ => holds _
theorem dbgAttach : ∀ c, Statement (.dbgAttach c) := fun _ => holds _
theorem dbgDetach : ∀ c, Statement (.dbgDetach c) := fun _ => holds _
theorem dbgResume : ∀ c, Statement (.dbgResume c) := fun _ => holds _
theorem sideRead : ∀ c, Statement (.sideRead c) := fun _ => holds _
theorem eventRoute : ∀ c, Statement (.eventRoute c) := fun _ => holds _
theorem clusterTest : ∀ c outcome, Statement (.clusterTest c outcome) := fun _ _ => holds _
theorem pbudgetWrite : ∀ value, Statement (.pbudgetWrite value) := fun _ => holds _
theorem registerWrite : ∀ offset value, Statement (.registerWrite offset value) := fun _ _ => holds _
theorem packetReceive : ∀ port p, Statement (.packetReceive port p) := fun _ _ => holds _
theorem acknowledgementReceive : ∀ port vl seq, Statement (.acknowledgementReceive port vl seq) := fun _ _ _ => holds _
theorem negativeAcknowledgement : ∀ port vl seq reason, Statement (.negativeAcknowledgement port vl seq reason) := fun _ _ _ _ => holds _
theorem replayBackoffExpiry : ∀ port vl, Statement (.replayBackoffExpiry port vl) := fun _ _ => holds _
theorem linkAckTimeout : ∀ port vl, Statement (.linkAckTimeout port vl) := fun _ _ => holds _
theorem portRetrain : ∀ port, Statement (.portRetrain port) := fun _ => holds _
theorem switchMerge : ∀ p, Statement (.switchMerge p) := fun _ => holds _
theorem mergeFlushInterval : ∀ entry, Statement (.mergeFlushInterval entry) := fun _ => holds _
theorem sliceEnd : ∀ gang, Statement (.sliceEnd gang) := fun _ => holds _
theorem gangReady : ∀ gang slice member, Statement (.gangReady gang slice member) := fun _ _ _ => holds _
theorem gangRunning : ∀ gang slice member, Statement (.gangRunning gang slice member) := fun _ _ _ => holds _
theorem gangSliceTimeout : ∀ gang, Statement (.gangSliceTimeout gang) := fun _ => holds _
theorem thermalLimit : ∀ die, Statement (.thermalLimit die) := fun _ => holds _
theorem releaseComplete : ∀ core, Statement (.releaseComplete core) := fun _ => holds _
theorem storeEntersView : ∀ grp, Statement (.storeEntersView grp) := fun _ => holds _
theorem reservedCommand : ∀ code c, Statement (.reservedCommand code c) := fun _ _ => holds _
theorem msiXUnmask : ∀ fn vec, Statement (.msiXUnmask fn vec) := fun _ _ => holds _
theorem srIovEnable : ∀ on, Statement (.srIovEnable on) := fun _ => holds _
theorem journalClear : ∀ step, Statement (.journalClear step) := fun _ => holds _

end Sys2Proof.Laws.WordCount
end

