-- ==== Sys2Proof/Tests/Slice0.lean ====
section
/-! SUPPORT. Tests: ill-formed terms that the check refuses, words that the decoder refuses, boundary results of the spec's
tables, and for each statement with hypotheses a concrete state and operands that meet them. -/

namespace Sys2Proof.Tests

set_option Elab.async false

open Sys2Proof Sys2Proof.Machine

/-! ### Ill-formed terms, one for each check -/

/-- An arithmetic entry on registers 1, 2 and 3 with an extension word. -/
def wOp (ty : Ty) : Alu := ⟨Guard.always, true, false, ty, .rn, false, 0, 1, 2, .reg 3, .reg 0⟩

/-- A load or store of lane words at a register's address. -/
def wMem : MemOp := ⟨Guard.always, true, .b32, .near, false, false, 4, 6, .vec 2 0 0⟩

/-- An atomic addition in the device's scope. -/
def wAtom : AtomOp := ⟨Guard.always, .dev, .relaxed, false, false, 0, 4, 6, .off32 0 0, false, .add, .n32⟩

/-- R35, R43, R44, R62: guards, types, SAT, rounding modes, SUB, pairs, predicates and unused fields. -/
theorem test_arith_terms_refused :
    [Instr.iadd { wOp .i32 with guard := ⟨15, true⟩ }, .iadd { wOp .i32 with u := true, guard := ⟨1, false⟩ },
     .iadd (wOp .f32), .imulhi { wOp .i32 with sat := true }, .iadd { wOp .i32 with rm := .rz },
     .iadd { wOp .i32 with sub := 1 }, .iadd { wOp .i32 with ext := false, sat := true },
     .iadd { wOp .i64 with d := 16382 }, .iadd { wOp .i64 with a := 16382 }, .iadd { wOp .i64 with b := .reg 16382 },
     .iadd { wOp .i32 with b := .imm14 1 }, .iadd { wOp .i32 with ext := false, b := .imm32 1 },
     .iadd { wOp .i32 with u := true, b := .scal 1 }, .iadd { wOp .i32 with c := .reg 1 },
     .imad { wOp .i32 with ext := false }, .imad { wOp .i32 with c := .imm32 1 }, .iabs { wOp .i32 with b := .reg 1 },
     .icmp { wOp .i32 with d := 16 }, .icmp { wOp .i32 with sub := 6 }, .sel { wOp .b32 with c := .reg 16 },
     .mov { wOp .b32 with a := 1 }, .movi { wOp .b64 with a := 0 }, .iaddc { wOp .n32 with c := .reg 16 },
     .pset ⟨Guard.always, 16, 0, 0, 0, 0⟩].all (fun i => !i.wf) = true := by
  decide

/-- R88, R95, R109: conversions, packing, reductions and lane entries. -/
theorem test_float_and_lane_terms_refused :
    [Instr.fadd { wOp .f16 with b := .imm32 0x10000 }, .fadd { wOp .f32 with ext := false, b := .imm14 1 },
     .cvt { wOp .f32 with b := .reg 0, sub := 10 }, .cvt { wOp .e4m3 with b := .reg 0, sub := 2 },
     .cvt { wOp .i32 with b := .reg 0, sub := 3 }, .fpack { wOp .f16x2 with sub := 1 },
     .fcmp { wOp .f32 with sub := 6 }, .hpadd { wOp .f16x2 with u := true }, .cmp2 { wOp .i16x2 with sub := 6 },
     .shfl { wOp .b32 with sub := 4 }, .vote { wOp .b32 with b := .reg 0, d := 16 },
     .gred { wOp .b32 with b := .reg 0 }, .gred { wOp .f32 with b := .reg 0, sub := 3 },
     .gscan { wOp .f32 with b := .reg 0, sat := true }, .lget { wOp .b32 with b := .scal 1 },
     .lget { wOp .b32 with b := .imm32 32 }, .lput { wOp .b32 with guard := ⟨1, false⟩ }].all (fun i => !i.wf) = true := by
  decide

/-- R136, R181, R182, R189, R203, R204: ranges, memory operands, fences and atomics. -/
theorem test_control_and_memory_terms_refused :
    [Instr.call ⟨Guard.always, 0, 0, 2, 0, 0, 16383, 0, 0, 0⟩, .call ⟨Guard.always, 0, 0, 0, 0, 1, 0, 0, 0, 0⟩,
     .callx ⟨Guard.always, 0, 0, 0, 0, 0, 0, 0, 0, 16384⟩, .ret ⟨Guard.always, false, 0, 1, 0, 0⟩,
     .spawn ⟨0, 0, .scal 0, 0⟩, .trap ⟨Guard.always, false, 1⟩, .abort ⟨Guard.always, false, 1⟩,
     .st { wMem with acc := .i8 }, .lds { wMem with pol := .die }, .ld { wMem with su := true },
     .ld { wMem with acc := .b64, d := 16382 }, .ld { wMem with vb := true, a := 16382 },
     .ld { wMem with ext := false, addr := .vec 2 1 0 }, .ld { wMem with addr := .off14 0 },
     .fence ⟨.dev, .relaxed, 1⟩, .fence ⟨.dev, .rel, 0⟩, .atom { wAtom with order := .rel },
     .atom { wAtom with mask := 1 }, .atom { wAtom with aop := .xor }, .atom { wAtom with ps := true },
     .acas { wAtom with aop := .min }, .acas wAtom, .red { wAtom with aop := .exch, ty := .b32 },
     .atom { wAtom with d := 16382 }, .barv ⟨.grid, 1, 2, 0, 0⟩, .barv ⟨.blk, 0, 0, 0, 0⟩, .bars ⟨.blk, 1, 0, 1, 0⟩,
     .barv ⟨.blk, 1, 0, 0, 1⟩].all (fun i => !i.wf) = true := by
  decide

/-- R233, R258, R283, R317, R345, R352, R368: engines, named lines, regions, the system, and the numbers of events. -/
theorem test_other_terms_refused :
    [Instr.cpy ⟨true, 0, .own, .bstore, 0, 0, .reg 0⟩, .cpy ⟨false, 0, .own, .glob, 0, 0, .reg 0⟩,
     .cpy ⟨true, 0, .own, .glob, 0, 0, .imm14 4⟩, .cpyx ⟨true, 0, 0, false, true⟩, .chcfg ⟨true, 0, 0, 0, .peer, 0⟩,
     .chcfg ⟨true, 0, 0, 0, .own, 193⟩, .wmark ⟨false, 0, 0, true⟩, .mma ⟨16, 0, 0, 0, false⟩,
     .mma ⟨0, 16382, 0, 0, false⟩, .tzero ⟨false, 0, 1⟩, .tload ⟨false, 0, 16383⟩,
     .tdrain ⟨0, false, 0, .rn, true, .f32, 0, 0, 0⟩, .tdrain ⟨0, false, 0, .rn, false, .f16, 0, 0, 0⟩,
     .tdrain ⟨0, false, 0, .rn, false, .f32, 120, 8, 0⟩, .qstore ⟨true, 0, 0, .imm32 65537, false⟩,
     .qstat ⟨false, 0, 0, false, 0⟩, .nput ⟨false, 16380, 0, 0, 0⟩, .nput ⟨false, 0, 0, 16, 0⟩,
     .nget ⟨true, 16383, 0, 0⟩, .nget ⟨false, 0, 0, 0⟩, .nroot ⟨true, .dev, .acq, 0, false, 0, 0⟩,
     .nbind ⟨false, 16382, 0, 0⟩, .nunbind ⟨false, 0, 0, 1⟩, .ncopy ⟨true, 0, 0, 0, .bstore, 0⟩,
     .nstat ⟨true, 0, 1, .pool, 0⟩, .tstat ⟨false, 0, .state⟩, .sget ⟨Guard.always, false, true, 0, .laneid⟩,
     .sget ⟨Guard.always, false, false, 16382, .clock⟩, .sset ⟨false, .clock, .reg 0⟩, .sset ⟨false, .exec, .scal 0⟩,
     .perf ⟨false, false, 0, .imm14 12⟩, .perf ⟨true, false, 0, .imm32 1⟩, .dbgLog ⟨false, 0, 0⟩, .kick 65 0 0,
     .coreDrain 512 .test, .ctxCreate ⟨16, 0, 0, 0, [], []⟩].all
       (fun i => !i.wf) = true := by
  decide

/-- Whether a word is refused with a name. -/
def refusedAs (w : DWord) (e : Option DWord) (x : DecodeError) : Bool :=
  match decode w e with
  | .error y => y == x
  | .ok _ => false

/-- R45: words refused by name: a reserved opcode, a reserved type, a bit that must be zero, a bad guard, a missing
extension word, and an immediate that IMM32 has to hold. -/
theorem test_words_refused :
    (refusedAs 0x7AF0000000000000 none .reservedOpcode && refusedAs 0x00F1F00000000000 none .badFunction
     && refusedAs 0x68F0000040000000 none .mustBeZero && refusedAs 0x60FC000000000000 (some 0) .badGuard
     && refusedAs 0x60F4000000000000 none .missingExtension && refusedAs 0x20F0A00040020005 none .badOperand) = true := by
  decide +kernel

/-! ### A small package -/

/-- A kernel of eight NOPs, with two functions and 4 KiB of scratchpad. -/
def wKernel : Kernel :=
  { code := List.replicate 8 0x68F0000000000000, entries := [⟨0, 0⟩, ⟨4, 2⟩], scratch := 4096, tiles := 4, constlen := 8,
    consts := [1, 2, 3, 4, 5, 6, 7, 8] }

/-- Registers: lane l of v1 to v3 holds l, 2 l and 40 l; s0 to s9 hold 64 times their index; p1 holds the odd lanes. -/
def wRegs : Regs :=
  { v := (List.range 32).map (fun l => (32 + l, BitVec.ofNat 32 l)) ++ (List.range 32).map (fun l => (64 + l, BitVec.ofNat 32 (2 * l)))
      ++ (List.range 32).map fun l => (96 + l, BitVec.ofNat 32 (40 * l))
    s := (List.range 10).map fun i => (i, BitVec.ofNat 64 (64 * i))
    p := [(1, 0xAAAAAAAA)] }

/-- The bytes of a 64-bit word, without the zeros. -/
def wCells (a v : Nat) : Cells :=
  ((List.range 8).map fun i => (a + i, BitVec.ofNat 8 (v / 256 ^ i))).filter fun (_, b) => b != 0

/-- Page tables of one context: virtual addresses 0 to 4 MiB lie at the physical addresses 0x400000 on, writable; line 5
of the second page holds 0x11. -/
def wMemory : Cells :=
  wCells 0x100000 0x101003 ++ wCells 0x101000 0x102003 ++ wCells 0x102000 0x400005 ++ wCells 0x102008 0x600005
    ++ wCells 0x4000C0 0x1122334455667788 ++ wCells 0x600500 0x11

/-- The launch's finished translation for a core all of whose lanes are good. -/
def wTrans : Trans :=
  { digest := [], cls := 0, keep := false, version := 0, dom := 0, done := true, asking := false, generation := 0 }

/-- A running launch of one block with two groups of 32 lanes on core 0; group 0 executes. -/
def wState : State :=
  { ({} : State) with
    booted := true, mem := wMemory
    groups := [(0, { th := { pc := 0, exec := 0xFFFFFFFF, live := 0xFFFFFFFF, strand := 0xFFFFFFFF, regs := wRegs } }),
               (1, { th := { pc := 8, exec := 0xFF, live := 0xFF, strand := 0xFF }, grpid := 1 })]
    blocks := [(0, { groups := [0, 1] })]
    launches := [(0, { st := .running, kernel := wKernel, consts := wKernel.consts,
                       record := [0, 0x0000000100000001, 0x100000001], clusters := [0], placed := 1 })]
    contexts := [(0, { desc := [0x100000, 1, 0, 0, 0] })]
    domains := [(0, { frames := [0x800000], roots := [0xA00000] })]
    cores := [(0, { lmap := 0xFFFFFFFFFFFFFFFF })], clusters := [(0, {})]
    trans := [(0, wTrans)]
    barriers := [(barrierKey 1 0 4, { members := [0, 1], expected := 2 })] }

/-- The same with some lanes of the executing group switched off. -/
def wState.withExec (m : Mask) : State := wState.setTh { wState.th with exec := m }

/-! ### Hypotheses met: encoding and stepping -/

theorem meets_DecodeAndEncodeAgree :
    (Instr.nop ⟨false⟩).wf = true ∧ encode (.nop ⟨false⟩) = some [0x68F0000000000000]
    ∧ (match decode 0x68F0000000000000 none with | .ok i => i == .nop ⟨false⟩ | .error _ => false) = true := by
  decide +kernel

/-- Group 1 has been retired, so that only group 0 can issue. -/
def wAlone : State := { wState with groups := [(0, wState.group 0)], blocks := [(0, { groups := [0] })] }

theorem meets_StepRunsDecodedOrBoundary :
    wAlone.moves = [.issue 0] ∧ ((wAlone.select 0).boundary).isNone = true
    ∧ (match (wAlone.select 0).fetch with | .ok i => i == .nop ⟨false⟩ | .error _ => false) = true
    ∧ (wAlone.setTh { wAlone.th with exec := 0 }).moves = [.issue 0]
    ∧ (((wAlone.setTh { wAlone.th with exec := 0 }).select 0).boundary).isSome = true := by
  decide +kernel

theorem meets_StepKeepsInvariant : State.reset.Inv ∧ ∃ t, step State.reset = .next t := ⟨by unfold State.Inv; decide, _, rfl⟩

theorem meets_NoActiveLane :
    (Instr.nop ⟨false⟩).guardLen = some (Guard.always, 8) ∧ (wState.withExec 0).th.act Guard.always = 0 := by
  decide +kernel

/-! ### Hypotheses met: arithmetic and lanes -/

theorem meets_IntegersWrapOrClamp :
    tyMin .i32 ≤ 5 ∧ (5 : Int) ≤ tyMax .i32 ∧ tyMin .n64 ≤ 0 ∧ tyMin .n32 ≤ 0 ∧ tyMin .i64 ≤ -1 := by
  decide +kernel

theorem meets_FieldBits :
    31 < Ty.i32.width ∧ fieldLen 0x804 Ty.i32.width ≠ 0 ∧ fieldLen 0x001F Ty.i32.width = 0 ∧ fieldLen 0x001F Ty.n64.width = 0 := by
  decide

theorem meets_CarryChain : wState.th.act (wOp .n32).guard ≠ 0 := by decide +kernel

/-- NaNs, zeros, an infinity, a whole number, one with a fraction; and conversions of each kind. -/
theorem meets_FloatArithmetic :
    let k := fmtF32
    k ∈ [fmtF32, fmtF16, fmtBf16] ∧ (∀ x ∈ [0x7FC00001, 0x80000000, 0xFF800000, 0x4B800000, 0x3FC00000], x < 2 ^ k.width)
    ∧ k.isNan 0x7FC00001 = true ∧ k.isNan 0x80000000 = false ∧ k.mag 0x80000000 = 0 ∧ k.fv 0xFF800000 = .inf true
    ∧ k.fv 0x4B800000 = .fin false 8388608 1 ∧ k.fv 0x3FC00000 = .fin false 12582912 (-23)
    ∧ cvtPairOk .f16 .f32 = true ∧ tyIsFloat .f32 = true ∧ (tyIsFloat .f16 && decide (Ty.f16.width < Ty.f32.width)) = true
    ∧ cvtPairOk .i32 .f16 = true ∧ (tyIsFloat .i32 && decide (Ty.i32.width < Ty.f16.width)) = false
    ∧ cvtPairOk .f32 .i32 = true ∧ tyIsFloat .i32 = false ∧ 0x7FC0 < 2 ^ Ty.f16.width := by
  decide +kernel

theorem meets_RoundingIsExactAndDirected :
    fmtF32 ∈ [fmtF32, fmtF16, fmtBf16, fmtE4m3, fmtE5m2] ∧ 0x3F800000 < 2 ^ fmtF32.width
    ∧ fmtF32.isNan 0x3F800000 = false ∧ fmtF32.isNan 0x7FC00001 = true
    ∧ 2 * 3 + 2 ^ 1 = 2 * (roundInt .rn false 3 (-1) * 2 ^ 1) := by
  decide +kernel

theorem meets_ApproximationSpecialValues :
    (0x7F800001 < 2 ^ 32 ∧ fmtF32.isNan 0x7F800001 = true) ∧ 0x1FFFFF < 0x200000
    ∧ (0x80000000 < 0x80000001 ∧ 0xFF800000 ≤ 0xFF800000) ∧ (0x43000000 ≤ 0x43000000 ∧ 0x43000000 ≤ 0x7F800000)
    ∧ (0xC3160000 < 0xC3160001 ∧ 0xC3160001 ≤ 0xFF800000) ∧ 0x397FFFFF < 0x39800000
    ∧ (0x41180000 ≤ 0x41180000 ∧ 0x41180000 ≤ 0x7F800000) := by
  decide +kernel

/-- Between 2 and 6 there are values; 1.5 and its exponents; 2 is a power of two with an odd exponent. -/
theorem meets_ApproximationIntervals :
    keyAbove 1 1 ≤ keyBelow 3 1
    ∧ fmtF32.fv 0x3FC00000 = .fin false 12582912 (-23) ∧ isPow2 12582912 = false ∧ (12582912 : Nat).log2 = 23
    ∧ signedInt false 12582912 * 2 ^ ((-23 : Int) + 192).toNat = (1 : Int) * 2 ^ 192 + (2 ^ 191 : Nat)
    ∧ 2 ^ 191 < 2 ^ 192 ∧ fmtF32.mag 0x3FC00000 < 0x41180000
    ∧ fmtF32.fv 0x40000000 = .fin false 8388608 (-22) ∧ ((8388608 : Nat).log2 : Int) + -22 = 1 := by
  decide +kernel

/-- SHFL, QSWP, QBCAST, VOTE and LPUT with each of their modes. -/
theorem meets_LaneExchange :
    (∀ n : BitVec 5, n ∈ [0, 1, 2, 3] → ({ wOp .b32 with sub := n } : Alu).sub = n)
    ∧ wState.th.act (wOp .b32).guard ≠ 0
    ∧ (wState.absentOf wState.grp).getLsbD (wState.env.opnd (.imm14 5) true false 64 0 % wState.grp.width) = false
    ∧ ({ wState with cur := 1 }.absentOf { wState with cur := 1 }.grp).getLsbD
        ({ wState with cur := 1 }.env.opnd (.imm14 5) true false 64 0 % 32) = true := by
  decide +kernel

theorem meets_VotesAndMatches : wState.th.act (wOp .b32).guard ≠ 0 ∧ wState.th.act ⟨1, true⟩ = 0x55555555 := by
  decide +kernel

theorem meets_ReductionsAndScans :
    (wOp .n32).ty = .n32 ∧ (wOp .n32).sub.toNat % 8 = 0 ∧ 31 ∈ lanesOf (wState.th.act Guard.always)
    ∧ wState.th.act Guard.always ≠ 0 ∧ (wOp .f32).ty = .f32 ∧ (wOp .f32).sub.toNat % 8 = 0 ∧ (wOp .f32).ty ≠ .i32
    ∧ [3, 5].Perm (lanesOf (0x28 : Mask))
    ∧ (∀ n : BitVec 5, n ∈ [1, 2, 3, 4, 5] → ({ wOp .n32 with sub := n } : Alu).sub.toNat % 8 = n.toNat)
    ∧ (let node (k i : Nat) : Option Nat := if k = 0 then (if (1 : Mask).getLsbD i then some 7 else none) else if i = 0 then some 7 else none
       node 0 0 = some 7 ∧ ∀ k, k < 6 → node (k + 1) 0 = match node k 0, node k (0 + 2 ^ k) with
          | some a, some _ => some a
          | some a, none => some a
          | none, b => b) := by
  decide +kernel

/-! ### Hypotheses met: control flow -/

/-- A branch by p1's lanes falls through in the others, and one by p15 in none. -/
theorem meets_BranchDiverges :
    wState.th.act ⟨1, false⟩ ≠ 0 ∧ (wState.th.exec &&& ~~~(wState.th.act ⟨1, false⟩)) &&& wState.th.live ≠ 0
    ∧ wState.th.act Guard.always ≠ 0 ∧ (wState.th.exec &&& ~~~(wState.th.act Guard.always)) &&& wState.th.live = 0
    ∧ wState.kernelOf wState.grp = wKernel := by
  decide +kernel

/-- v4 holds 8 or 16 by lane, two words of the body. -/
def wIndexed : State :=
  wState.setRegs (wRegs.putVec 4 0xFFFFFFFF fun l => if l < 10 then 16 else 8)

theorem meets_IndexedBranch :
    wIndexed.th.act Guard.always ≠ 0
    ∧ (∀ l, l < 32 → (wIndexed.th.regs.vec 4 l).toNat % 8 = 0
        ∧ (wIndexed.kernelOf wIndexed.grp).inBody wIndexed.th.body ((wIndexed.th.regs.vec 4 l).toNat / 8) = true)
    ∧ (wIndexed.th.exec &&& ~~~(wIndexed.th.act Guard.always)) &&& wIndexed.th.live = 0
    ∧ wIndexed.th.act ⟨1, false⟩ ≠ 0
    ∧ (wIndexed.th.exec &&& ~~~(wIndexed.th.act ⟨1, false⟩)) &&& wIndexed.th.live ≠ 0 := by
  decide +kernel

/-- v4 holds the index of the function at word 4. -/
def wCalling : State := wState.setRegs (wRegs.putVec 4 0xFFFFFFFF fun _ => 1)

/-- v4 holds the index of the function at word 6 in the odd lanes, and of that at word 4 in the even ones. -/
def wCallingTwo : State :=
  { wState.setRegs (wRegs.putVec 4 0xFFFFFFFF fun l => BitVec.ofNat 32 (1 + l % 2)) with
    launches := [(0, { wState.launch 0 with kernel := { wKernel with entries := [⟨0, 0⟩, ⟨4, 2⟩, ⟨6, 2⟩] } })] }

/-- As deep as calls go. -/
def wDeep : State :=
  wCalling.setTh { wCalling.th with
    depth := 1024
    stack := List.replicate 1024 (.frame ⟨16, 0xFFFFFFFF, {}, 0, ⟨0, 0, 0, 0, 0, 0, 0, 0⟩, 0, []⟩) }

theorem meets_CallEnters :
    wCalling.th.act Guard.always ≠ 0 ∧ wCalling.th.depth < 1024
    ∧ ((wCalling.kernelOf wCalling.grp).entries[1]?).map (fun e => (e.kind, e.woff)) = some (2, 4)
    ∧ (∀ l, l < 32 → (wCalling.th.act Guard.always).getLsbD l = true → (wCalling.th.regs.vec 4 l).toNat = 1)
    ∧ wCalling.Outside ∧ wCalling.grp.hnd = none
    ∧ wDeep.th.act Guard.always ≠ 0 ∧ 1024 ≤ wDeep.th.depth ∧ wDeep.Outside ∧ wDeep.grp.hnd = none
    ∧ (∀ l, l < 32 → (wDeep.th.regs.vec 4 l).toNat = 1) := by
  unfold State.Outside
  decide +kernel

theorem meets_CallEnters_indices :
    wCallingTwo.th.act Guard.always ≠ 0 ∧ wCallingTwo.th.depth < 1024 ∧ wCallingTwo.Outside ∧ wCallingTwo.grp.hnd = none
    ∧ (∀ j, j = 1 ∨ j = 2 → ((wCallingTwo.kernelOf wCallingTwo.grp).entries[j]?).map (·.kind) = some 2)
    ∧ (∀ l, l < 32 → ((0x55555555 : Mask).getLsbD l = true ↔ (wCallingTwo.th.regs.vec 4 l).toNat = 1))
    ∧ (∀ l, l < 32 → (wCallingTwo.th.regs.vec 4 l).toNat = 1 ∨ (wCallingTwo.th.regs.vec 4 l).toNat = 2)
    ∧ (wCallingTwo.th.regs.vec 4 1).toNat = 2
    -- v1 holds the lane number, and entry 0 is no function
    ∧ (wCallingTwo.th.regs.vec 1 0).toNat = 0
    ∧ ((wCallingTwo.kernelOf wCallingTwo.grp).entries[0]?).map (·.kind) ≠ some 2 := by
  unfold State.Outside
  refine ⟨by decide +kernel, by decide +kernel, by decide +kernel, by decide +kernel, ?_, by decide +kernel, by decide +kernel,
    by decide +kernel, by decide +kernel, by decide +kernel⟩
  rintro j (rfl | rfl) <;> decide +kernel

/-- The frame of a call that is to return two vector registers and one scalar. -/
def wFrame : Frame :=
  { ret := 16, exec := 0xFFFFFFFF, regs := wRegs, body := 0, rng := ⟨20, 2, 10, 4, 4, 2, 8, 1⟩, returned := 0, more := [] }

/-- Inside that function. -/
def wCalled : State := wState.setTh { wState.th with stack := [.frame wFrame] }

/-- The same with two entries above the frame. -/
def wCalledAbove : State := wState.setTh { wState.th with stack := [.join 24 0xFFFFFFFF, .pending 32 1 false, .frame wFrame] }

theorem meets_ReturnWritesResults :
    wCalled.th.act Guard.always ≠ 0 ∧ wCalled.th.stack = [] ++ .frame wFrame :: []
    ∧ wCalledAbove.th.act Guard.always ≠ 0
    ∧ wCalledAbove.th.stack = [.join 24 0xFFFFFFFF, .pending 32 1 false] ++ .frame wFrame :: []
    ∧ ∀ e ∈ [Entry.join 24 0xFFFFFFFF, .pending 32 1 false], ∀ x, e ≠ .frame x := by
  refine ⟨by decide +kernel, by decide +kernel, by decide +kernel, by decide +kernel, ?_⟩
  intro e he x
  simp only [List.mem_cons, List.not_mem_nil, or_false] at he
  rcases he with rfl | rfl <;> simp

/-- A group with one engine operation in some state. -/
def wState.withOp (st : OpState) : State :=
  { wState with ops := [(0, { grp := 0, block := 0, core := 0, chan := some 0, kind := .cpy .own .glob 0 0 4, st := st })]
                blocks := [(0, { groups := [0, 1], chans := [(0, { queue := if st = .finished then [] else [0] })] })] }

theorem meets_EndEndsLanes :
    wState.th.act Guard.always ≠ 0 ∧ wState.Outside
    ∧ ((wState.flush 0).th.endLanes (wState.th.act ⟨1, false⟩)).spent = false
    ∧ (((wState.withOp .finished).flush 0).th.endLanes (wState.th.act Guard.always)).spent = true
    ∧ (∀ o ∈ ((wState.withOp .finished).flush 0).opsOf 0, o.2.st = .finished)
    ∧ (((wState.withOp .started).flush 0).th.endLanes ((wState.withOp .started).th.act Guard.always)).spent = true
    ∧ (∃ o ∈ ((wState.withOp .started).flush 0).opsOf 0, o.2.st ≠ .finished)
    ∧ (wState.withOp .started).Outside := by
  unfold State.Outside
  decide +kernel

theorem wState.noFault (o : Nat) (st : OpState) : (((wState.withOp st).flush 0).op o).fault = none := by
  have h : ((wState.withOp st).flush 0) = wState.withOp st := by cases st <;> decide +kernel
  rw [h]
  by_cases ho : o = 0
  · subst ho; rfl
  · simp [State.op, wState.withOp, Tab.get, Tab.find?, Ne.symm ho]

/-- The group asks for 3 groups; none of the 16 slots is taken. -/
theorem meets_SpawnCreates :
    wState.th.act Guard.always ≠ 0 ∧ wState.Outside
    ∧ min (wState.env.uval (.imm14 3) 64) 16 = 3
    ∧ ((List.range 16).filter fun i => (((wState.flush 0).core 0).pool.find? i).isNone).length = 16 := by
  unfold State.Outside
  decide +kernel

theorem meets_YieldAndNoPreempt : wState.th.act Guard.always ≠ 0 ∧ wState.Outside := by
  unfold State.Outside
  decide +kernel

/-! ### Hypotheses met: faults -/

theorem meets_FaultDelivery : (wState.group 0).hnd = none := by decide +kernel

theorem meets_TrapTakesFault : wState.th.act Guard.always ≠ 0 ∧ wState.Outside ∧ wState.grp.hnd = none := by
  unfold State.Outside
  decide +kernel

/-- A handler of group 0, for a misaligned access at word 2. -/
def wHandler : Handler := { outer := { wState.th with pc := 16 }, fault := ⟨6, 1, 1, 0, 16, 16, 24, 0, false⟩, kernel := wKernel }

/-- Group 0 in that handler. -/
def wHandling : State :=
  wState.setGrp { wState.grp with hnd := some wHandler, th := handlerThread wKernel 4 wHandler.fault 0 }

theorem meets_ReturnFromHandler : wHandling.grp.hnd = some wHandler := by decide +kernel

/-- s5 is odd. -/
def wOdd : State := wState.setRegs (wRegs.setScal 5 0x41)

/-- An access of four bytes at s5, and one of a peer or scratchpad atomic. -/
theorem meets_MisalignedFaults :
    wOdd.Outside ∧ wOdd.grp.hnd = none ∧ wOdd.th.act wMem.guard ≠ 0
    ∧ (∀ l, l < 32 → (wOdd.th.act wMem.guard).getLsbD l = true →
        wOdd.env.ea 5 false true (.vec 2 1 0) l % 4 ≠ 0)
    ∧ (∀ l, l < 32 → (wOdd.th.act wMem.guard).getLsbD l = true → wOdd.env.ea 5 false false (.off32 0 2) l % 4 ≠ 0)
    ∧ ({ wAtom with ps := true } : AtomOp).ps = true := by
  unfold State.Outside
  decide +kernel

/-! ### Hypotheses met: memory -/

/-- The targets of lanes none of which failed. -/
theorem all_passed (rs : List (Nat × Except Failed Target)) (h : (failedLanes rs).isEmpty = true) :
    rs = (passedLanes rs).map fun x => (x.1, .ok x.2) := by
  induction rs with
  | nil => rfl
  | cons x t ih =>
    obtain ⟨l, r⟩ := x
    cases r with
    | error f => simp [failedLanes] at h
    | ok y =>
      have h' : (failedLanes t).isEmpty = true := by simpa [failedLanes] using h
      have := ih h'
      simp only [passedLanes, List.filterMap_cons, List.map_cons] at this ⊢
      rw [← this]

/-- Lanes that pass their checks and wait for no watermark reach their targets. -/
theorem reaches (s : State) (sp : MSpace) (n : Nat) (u : Use) (ea : Nat → Nat) (lanes : List Nat)
    (h : (failedLanes (s.targets sp n u ea lanes).1).isEmpty = true)
    (w : ((s.targets sp n u ea lanes).2.waitsOn n (passedLanes (s.targets sp n u ea lanes).1)).isEmpty = true) :
    s.Reaches sp n u ea lanes (passedLanes (s.targets sp n u ea lanes).1) (s.targets sp n u ea lanes).2 :=
  ⟨Prod.ext (all_passed _ h) rfl, List.isEmpty_iff.mp w⟩

/-- Three lanes of group 0. -/
def wThree : State := wState.withExec 0x80000003

/-- Where their accesses go, at s6 plus four times v1. -/
def wTargets (sp : MSpace) (u : Use) : List (Nat × Except Failed Target) × State :=
  wThree.targets sp 4 u (wThree.env.ea 6 false (sp != .own) (.vec 1 2 0)) (accessLanes (wThree.th.act Guard.always) false)

/-- Lane 0 of an access at s6 plus v1 is aligned and passes its checks, and lane 1 is misaligned. -/
theorem meets_MisalignedFaults_lanes :
    (∀ sp ∈ [MSpace.glob, .own, .peer], ∀ u ∈ [Use.load, .store],
      let ea := wThree.env.ea 6 false (sp != .own) (.vec 1 0 0)
      let p := wThree.targets sp 4 u ea (accessLanes (wThree.th.act Guard.always) false)
      (match p.1.head? with
       | some (0, .ok t) => [wAtom, { wAtom with ty := .b32 }].all fun f =>
           match p.2.atomTarget f false (.ok t) with | .ok y => y == t | .error _ => false
       | _ => false) = true
      ∧ ea 0 % 4 = 0 ∧ ea 1 % 4 ≠ 0)
    ∧ accessLanes (wThree.th.act Guard.always) false = [0, 1, 31] ∧ wThree.flush wThree.cur = wThree ∧ wThree.grp.hnd = none := by
  decide +kernel

/-- The same lanes, where the byte that lane 1 of an access to a space reaches first is poisoned. -/
def wPoisoned (sp : MSpace) : State :=
  { wThree with poison := (passedLanes (wTargets sp .load).1).filterMap fun x => if x.1 = 1 then some (x.2.loc, ()) else none }

/-- A load that meets it, and an LDC whose constant bank holds a poisoned byte. -/
theorem meets_LoadsComplete_poison :
    (∀ sp ∈ [MSpace.glob, .own, .peer],
      let p := (wPoisoned sp).targets sp 4 .load (wThree.env.ea 6 false (sp != .own) (.vec 1 2 0)) (accessLanes (wThree.th.act Guard.always) false)
      (failedLanes p.1).isEmpty = true ∧ (p.2.waitsOn 4 (passedLanes p.1)).isEmpty = true
        ∧ ((p.2.loadAll 4 false (passedLanes p.1)).1.any fun v => anyPoison v.2.2) = true
        ∧ (wPoisoned sp).grp.hnd = none ∧ (wPoisoned sp).Outside)
    ∧ (let s := wThree.modLaunch 0 fun x => { x with badConsts := [9] }
       s.Outside ∧ s.grp.hnd = none ∧ 9 ∈ s.badBank ∧ anyPoison (s.constBytes 8 4) = true) := by
  unfold State.Outside
  decide +kernel

/-- LD, LDS and LDP of four bytes, and LDC. -/
theorem meets_LoadsComplete :
    wThree.th.act Guard.always ≠ 0 ∧ wThree.Outside
    ∧ (∀ sp ∈ [MSpace.glob, .own, .peer], (failedLanes (wTargets sp .load).1).isEmpty = true
        ∧ ((wTargets sp .load).2.waitsOn 4 (passedLanes (wTargets sp .load).1)).isEmpty = true
        ∧ ∀ v ∈ ((wTargets sp .load).2.loadAll 4 false (passedLanes (wTargets sp .load).1)).1, anyPoison v.2.2 = false)
    ∧ ∀ l, l < 32 → (wThree.th.act Guard.always).getLsbD l = true → wThree.env.ea 1 false false (.vec 1 2 0) l % 4 = 0
        ∧ anyPoison (wThree.constBytes (wThree.env.ea 1 false false (.vec 1 2 0) l) 4) = false := by
  unfold State.Outside
  decide +kernel

/-- ST, STS and STP of four bytes. -/
theorem meets_StoresComplete :
    wThree.th.act Guard.always ≠ 0 ∧ wThree.Outside
    ∧ ∀ sp ∈ [MSpace.glob, .own, .peer], (failedLanes (wTargets sp .store).1).isEmpty = true
        ∧ ((wTargets sp .store).2.waitsOn 4 (passedLanes (wTargets sp .store).1)).isEmpty = true := by
  unfold State.Outside
  decide +kernel

/-- Lane l stores v3 at 384 + 8 l, in its own scratchpad. -/
theorem meets_StoreThenLoad :
    let f : MemOp := { wMem with addr := .vec 2 2 0 }
    f.acc = .b32 ∧ f.su = false ∧ (3 : Idx).toNat ≠ 16383 ∧ (wState.th.act f.guard).getLsbD 31 = true ∧ wState.Outside
    ∧ (wState.block wState.grp.block).chans = []
    ∧ (∀ j, j < 32 → (wState.th.act f.guard).getLsbD j = true → wState.env.ea f.a f.vb false f.addr j % 4 = 0
        ∧ wState.env.ea f.a f.vb false f.addr j + 4 ≤ wState.scratchOf wState.grp.block)
    ∧ (∀ j, j < 32 → (wState.th.act f.guard).getLsbD j = true → j ≠ 31 →
        wState.env.ea f.a f.vb false f.addr j + 4 ≤ wState.env.ea f.a f.vb false f.addr 31
          ∨ wState.env.ea f.a f.vb false f.addr 31 + 4 ≤ wState.env.ea f.a f.vb false f.addr j)
    ∧ (∀ w ∈ wState.grp.gated, anyPoison w.bytes = false)
    ∧ (∀ j, j < 32 → (wState.th.act f.guard).getLsbD j = true → ∀ i, i < 4 →
        let a := scratchKey wState.grp.block + wState.env.ea f.a f.vb false f.addr j + i
        wState.viewMark (wState.core wState.grp.core) a = false ∧ (wState.core wState.grp.core).badCopy.has a = false) := by
  unfold State.Outside
  decide +kernel

/-- No lane finds its entries used up where every line has a place among the first `cap`. -/
theorem no_spills {cap : Nat} {held : List LineId} {ts : List (Nat × LineId)}
    (h : ∀ p ∈ ts, (held ++ ts.map (·.2)).eraseDups.idxOf p.2 < cap) (l : Nat) : ¬Spills cap held ts l := by
  rintro ⟨x, hx, hc⟩
  exact absurd (h _ hx) (Nat.not_lt.mpr hc)

/-- No lane aliases where no accessed line has both a reader and a writer. -/
theorem no_aliases {r w : LineId → Mask} {ts : List (Nat × LineId)} (h : ∀ p ∈ ts, r p.2 = 0 ∨ w p.2 = 0) (l : Nat) :
    ¬Aliases r w ts l := by
  rintro ⟨y, hy, ⟨a, b, -, ha, hb⟩, -⟩
  rcases h y hy with e | e
  · rw [e] at ha; simp at ha
  · rw [e] at hb; simp at hb

/-- Lanes 0 to 3 of group 0, all of them in RM, whose region has some buffered stores and a read set. -/
def wRegion (buffer : List BufStore) (reads : List ReadLine) : State :=
  wState.setGrp { wState.grp with
    th := { wState.th with exec := 0xF, stack := [.tryE 16] }
    region := { depth := 1, rm := 0xFF, entry := 0xFF, ckRegs := wRegs, buffer := buffer, reads := reads } }

/-- Where their accesses go, at s6 and an offset in v1. -/
def wGoes (s : State) (sp : MSpace) (u : Use) (shift : BitVec 2) : List (Nat × Except Failed Target) × State :=
  s.targets sp 4 u (s.env.ea 6 false (sp != .own) (.vec 1 shift 0)) (regionLanes 0xF (0xF &&& s.grp.rm) false)

/-- The lines of those accesses, four bytes for each lane. -/
def wLines (sp : MSpace) (u : Use) : List (Nat × LineId) :=
  (passedLanes (wGoes (wRegion [] []) sp u 2).1).map fun x => (x.1, x.2.line)

/-- A buffered store of lane 5 to a line, and a line that lane 5 has read. -/
def wBuffered (x : LineId) : BufStore := ⟨5, x, ⟨9999, leMBytes 4 7, 9999, false⟩⟩
def wRead (x : LineId) : ReadLine := ⟨x, 0x20, 9984⟩

/-- Those accesses pass their checks, whatever the region holds, and their lanes are in RM. -/
theorem meets_region_accesses :
    (∀ sp ∈ [MSpace.glob, .own, .peer], ∀ u ∈ [Use.load, .store],
      let s := wRegion [wBuffered ⟨9, 9⟩] [wRead ⟨9, 8⟩]
      let p := wGoes s sp u 2
      (failedLanes p.1).isEmpty = true ∧ (p.2.waitsOn 4 (passedLanes p.1)).isEmpty = true
      ∧ (∀ x ∈ passedLanes p.1, x.2.unsup = false ∧ x.2.view = false)
      ∧ (∀ v ∈ (p.2.loadAll 4 false (passedLanes p.1)).1, anyPoison v.2.2 = false)
      ∧ s.th.act Guard.always = 0xF ∧ (0xF &&& s.grp.rm : Mask) ≠ 0 ∧ s.grp.region.storeLines.length ≤ 32
      ∧ s.grp.region.reads.length ≤ 256) := by
  decide +kernel

/-- Lane 5 and a lower one alias where each has accessed the line, one as its reader and the other as its writer. -/
theorem aliases_five {r w : LineId → Mask} {ts : List (Nat × LineId)} {p : Nat × LineId} (hp : p ∈ ts)
    (h : (r p.2).getLsbD 5 = true ∧ (w p.2).getLsbD 0 = true ∨ (r p.2).getLsbD 0 = true ∧ (w p.2).getLsbD 5 = true) :
    Aliases r w ts 5 := by
  rcases h with ⟨ha, hb⟩ | ⟨ha, hb⟩
  · exact ⟨p, hp, ⟨5, 0, by decide, ha, hb⟩, by simp [ha], 0, by decide, by simp [hb]⟩
  · exact ⟨p, hp, ⟨0, 5, by decide, ha, hb⟩, by simp [hb], 0, by decide, by simp [ha]⟩

/-- No entry is short and no line aliases where the region is open for other lines; 32 other buffered lines, or 256 others read, leave
no entry; a line that lane 5 has read or stored aliases. -/
theorem meets_region_lines : ∀ sp ∈ [MSpace.glob, .own, .peer],
    let st := wLines sp .store
    let ld := wLines sp .load
    let full := (wRegion ((List.range 32).map fun i => wBuffered ⟨9, i⟩) []).grp.region.storeLines
    let reads := (List.range 256).map fun i => (⟨9, i⟩ : LineId)
    let region (x : LineId) : Region := (wRegion [wBuffered x] [wRead x]).grp.region
    (∀ l, ¬Spills 32 [⟨9, 9⟩] st l) ∧ (∀ l, ¬Spills 256 [⟨9, 8⟩] ld l)
    ∧ (∀ l, ¬Aliases (region ⟨9, 9⟩).readers (lineLanes st) st l) ∧ (∀ l, ¬Aliases (lineLanes ld) (region ⟨9, 9⟩).writers ld l)
    ∧ (full.length ≤ 32 ∧ ∃ l, Spills 32 full st l) ∧ (reads.length ≤ 256 ∧ reads.Nodup ∧ ∃ l, Spills 256 reads ld l)
    ∧ (∃ x l, Aliases (region x).readers (lineLanes st) st l) ∧ ∃ x l, Aliases (lineLanes ld) (region x).writers ld l := by
  have h : ∀ sp ∈ [MSpace.glob, .own, .peer],
      let st := wLines sp .store
      let ld := wLines sp .load
      let full := (wRegion ((List.range 32).map fun i => wBuffered ⟨9, i⟩) []).grp.region.storeLines
      let reads := (List.range 256).map fun i => (⟨9, i⟩ : LineId)
      let region (x : LineId) : Region := (wRegion [wBuffered x] [wRead x]).grp.region
      (∀ p ∈ st, ([(⟨9, 9⟩ : LineId)] ++ st.map (·.2)).eraseDups.idxOf p.2 < 32)
      ∧ (∀ p ∈ ld, ([(⟨9, 8⟩ : LineId)] ++ ld.map (·.2)).eraseDups.idxOf p.2 < 256)
      ∧ (∀ p ∈ st, (region ⟨9, 9⟩).readers p.2 = 0 ∨ lineLanes st p.2 = 0)
      ∧ (∀ p ∈ ld, lineLanes ld p.2 = 0 ∨ (region ⟨9, 9⟩).writers p.2 = 0)
      ∧ (full.length ≤ 32 ∧ ∃ p ∈ st, 32 ≤ (full ++ st.map (·.2)).eraseDups.idxOf p.2)
      ∧ (reads.length ≤ 256 ∧ reads.Nodup ∧ ∃ p ∈ ld, 256 ≤ (reads ++ ld.map (·.2)).eraseDups.idxOf p.2)
      ∧ (∃ p ∈ st, ((region p.2).readers p.2).getLsbD 5 = true ∧ (lineLanes st p.2).getLsbD 0 = true)
      ∧ ∃ p ∈ ld, (lineLanes ld p.2).getLsbD 0 = true ∧ ((region p.2).writers p.2).getLsbD 5 = true := by
    decide +kernel
  intro sp hsp
  obtain ⟨h1, h2, h3, h4, ⟨h5, p, hp, h6⟩, ⟨h7, h8, q, hq, h9⟩, ⟨x, hx, h10⟩, y, hy, h11⟩ := h sp hsp
  exact ⟨no_spills h1, no_spills h2, no_aliases h3, no_aliases h4, ⟨h5, p.1, p.2, hp, h6⟩, ⟨h7, h8, q.1, q.2, hq, h9⟩,
    ⟨x.2, 5, aliases_five hx (.inl h10)⟩, y.2, 5, aliases_five hy (.inr h11)⟩

/-- Loads of lanes in RM that receive poisoned bytes, an access to a page with NC, and lanes that are misaligned, beside a lane in order. -/
theorem meets_region_aborts :
    (∀ sp ∈ [MSpace.glob, .own, .peer],
      let s := { wRegion [] [] with poison := (passedLanes (wGoes (wRegion [] []) sp .load 2).1).map fun x => (x.2.loc, ()) }
      let p := wGoes s sp .load 2
      (failedLanes p.1).isEmpty = true ∧ (p.2.waitsOn 4 (passedLanes p.1)).isEmpty = true
      ∧ ((p.2.loadAll 4 false (passedLanes p.1)).1.any fun v => v.1 == 1 && !v.2.1.view
          && anyPoison (s.grp.region.overlay v.1 v.2.1.loc v.2.2)) = true)
    ∧ (∀ u ∈ [Use.load, .store],
        let p := wGoes { wRegion [] [] with mem := wMemory.map fun c => if c.1 = 0x102000 then (c.1, c.2 ||| 0x80) else c } .glob u 2
        ((passedLanes p.1).any fun x => x.1 == 0 && x.2.unsup) = true)
    ∧ (∀ sp ∈ [MSpace.glob, .own, .peer], ∀ u ∈ [Use.load, .store],
        let p := wGoes (wRegion [] []) sp u 0
        let fs := failedLanes p.1
        fs.map (·.1) = [1, 2, 3] ∧ (fs.all fun x => !x.2.unsup) = true ∧ ((passedLanes p.1).all fun x => !x.2.unsup) = true
        ∧ lanesMask (fs.map (·.1)) &&& ~~~(wRegion [] []).grp.rm = 0) := by
  decide +kernel

/-- Group 0 has stored eight bytes at virtual address 0xC0; they have not entered the view. -/
def wGated : State := wState.setGrp { wState.grp with gated := [⟨0x4000C0, leMBytes 8 5, 0xC0, false⟩] }

/-- The store has entered the view, and the device's release of global memory is under way. -/
def wReleasing : State := (wGated.release 0 3 2).2.2

theorem meets_StoresEnterAndRelease :
    (wGated.group 0).gated = ⟨0x4000C0, leMBytes 8 5, 0xC0, false⟩ :: []
    ∧ (wReleasing.core 0).rels = 0 :: [] ∧ (wReleasing.rels.find? 0).isSome = true
    ∧ wReleasing.Inv ∧ ((wReleasing.rels.find? 0).map (·.todo)) = some [1] ∧ [1].Nodup
    ∧ (((wReleasing.core 0).stores.find? (·.sid == 1)).map (·.seq)) = some 0 := by
  unfold State.Inv
  decide +kernel

theorem meets_BytesAtHome :
    wReleasing.Inv ∧ ((wReleasing.core 0).stores.find? (·.sid == 1)).isSome = true
    ∧ (∀ st, (wReleasing.core 0).stores.find? (·.sid == 1) = some st → st.seq = 0) := by
  unfold State.Inv
  refine ⟨by decide +kernel, by decide +kernel, ?_⟩
  intro st h
  have h' : ((wReleasing.core 0).stores.find? (·.sid == 1)).map (·.seq) = some 0 := by decide +kernel
  rw [h] at h'
  simpa using h'

/-- The release has completed: an acquire of the device's scope requires its store; before, the view keeps it as unpublished. -/
theorem meets_Acquired :
    ((wReleasing.completeRelease 0).hist.any fun e => e.rels.any fun m =>
        match (wReleasing.completeRelease 0).rels.find? m with
        | some q => q.done && covers 2 e.loc && covers q.mask e.loc && inScope q.scope q.core 0 && inScope 3 0 q.core
            && decide (0 < e.bytes.length)
        | none => false) = true
    ∧ ((wGated.flush 0).core 0).view.find? 0x4000C0 = some ⟨5, false, 0, 1⟩ ∧ covers 2 0x4000C0 = true ∧ (2 : Nat) ≤ 3 := by
  decide +kernel

theorem meets_PlacementAndFences :
    wState.Outside ∧ wGated.th.act Guard.always ≠ 0
    ∧ (∀ st ∈ ((wGated.flush wGated.cur).core wGated.grp.core).stores, (wGated.flush wGated.cur).unreach st.w.loc = false)
    ∧ ((wGated.flush wGated.cur).core wGated.grp.core).stores.length = 1 := by
  unfold State.Outside
  decide +kernel

/-! ### Hypotheses met: atomics, barriers and waits -/

/-- An atomic on the word at s6 plus four times v1: plain, releasing, or a compare. -/
def wRed : AtomOp := { wAtom with addr := .vec 1 2 0 }
def wRedRel : AtomOp := { wRed with order := .rel, mask := 2 }
def wCas : AtomOp := { wRed with ty := .b32 }

/-- The state before the lanes of an atomic perform, and what they give. -/
def wAtomRun (f : AtomOp) (sp : MSpace) (cas : Bool) : Option (BitVec 64) × List (Nat × Option Nat) :=
  let p := wTargets sp .store
  let ts := passedLanes p.1
  let q := (ts.foldl (fun s x => s.joinBelow s.grp.block x.2.va x.2.loc 4) p.2).orderRelease f.order (scopeRank f.scope) f.mask
  let s3 := q.2.homesReady f.order
  (q.1, (s3.atomLanes f 4 cas (atomData wThree.th.regs 4 4 false) (atomData wThree.th.regs 5 4 false) [] ts).1)

/-- ATOM, ATOMS, ATOMP, RED and REDS; ACAS and ACASS; and a releasing form. -/
theorem meets_AtomicsComplete :
    wThree.th.act wRed.guard ≠ 0 ∧ wThree.Outside ∧ wThree.flush wThree.cur = wThree
    ∧ ([MSpace.glob, .own, .peer].all fun sp => [(wRed, false), (wRedRel, false), (wCas, true)].all fun (f, cas) =>
        (failedLanes (wTargets sp .store).1).isEmpty
        && ((wTargets sp .store).2.waitsOn 4 (passedLanes (wTargets sp .store).1)).isEmpty
        && (passedLanes (wTargets sp .store).1).all (fun x =>
            match (wTargets sp .store).2.atomTarget f cas (.ok x.2) with | .ok y => y == x.2 | .error _ => false)
        && (wAtomRun f sp cas).1.isNone && (wAtomRun f sp cas).2.all fun o => o.2.isSome) = true := by
  unfold State.Outside
  decide +kernel

theorem meets_AtomicAtHome :
    wState.Inv ∧ anyPoison (wState.homeBytes 0x4000C0 4) = false ∧ 0x80000000 < 2 ^ Ty.i32.width ∧ (1 : Nat) < 2 ^ Ty.n64.width
    ∧ 0xFFFFFFFF < 2 ^ Ty.b32.width ∧ 0x7FC00000 < 2 ^ Ty.f32.width ∧ fmtF32.isNan 0x7FC00000 = true
    ∧ fmtF32.isNan 0x80000000 = false ∧ 0x3C003C00 < 2 ^ Ty.bf16x2.width := by
  unfold State.Inv
  decide +kernel

/-- Block barrier 4, with s8 naming the phase before the current one, and s1 one that has not completed. -/
def wBar : BarOp := ⟨.blk, 4, 4, 7, 8⟩
def wBarred : State := wState.setRegs (wRegs.setScal 8 0xFFFFFFFF)

/-- Group 0 has arrived there. -/
def wArrived : State := { wBarred with barriers := [(barrierKey 1 0 4, { members := [0, 1], arrived := [0], expected := 2 })] }

theorem meets_BarrierInstructions :
    wBarred.th.act Guard.always ≠ 0 ∧ wBarred.Outside ∧ wBarred.barrierOf wBar = barrierKey 1 0 4
    ∧ wBarred.cur ∈ (wBarred.barrier (wBarred.barrierOf wBar)).members
    ∧ wBarred.cur ∉ (wBarred.barrier (wBarred.barrierOf wBar)).arrived
    ∧ (∀ st ∈ ((wBarred.flush wBarred.cur).core wBarred.grp.core).stores, (wBarred.flush wBarred.cur).unreach st.w.loc = false)
    ∧ phaseDone 0 ((wBarred.th.regs.scal 8).setWidth 32) = true ∧ phaseDone 0 ((wBarred.th.regs.scal 1).setWidth 32) = false
    ∧ wArrived.Outside ∧ wArrived.grp.hnd = none ∧ wArrived.cur ∈ (wArrived.barrier (wArrived.barrierOf wBar)).arrived
    ∧ wArrived.cur ∉ (wArrived.barrier (wArrived.barrierOf { wBar with num := 5 })).members := by
  unfold State.Outside
  decide +kernel

/-- Both groups have arrived, and group 1 waits for the phase. -/
def wFull : State :=
  { wState with
    barriers := [(barrierKey 1 0 4, { members := [0, 1], arrived := [0, 1], expected := 2 })]
    groups := [(0, wState.group 0), (1, { wState.group 1 with wait := .barrier (barrierKey 1 0 4) 0 1 4 })] }

theorem meets_PhaseCompletes :
    wFull.phaseFull (barrierKey 1 0 4) = true ∧ (wFull.groups.find? 1).isSome = true ∧ (wFull.group 1).retired = false
    ∧ (wFull.group 1).wait = .barrier (barrierKey 1 0 4) 0 1 4 ∧ phaseDone (0 + 1) 0 = true
    ∧ (wFull.barrier (barrierKey 1 0 4)).members ≠ []
    ∧ (let s : State := { wFull with barriers := [(barrierKey 1 0 4, { members := [], arrived := [0], expected := 1 })] }
       s.phaseFull (barrierKey 1 0 4) = true ∧ (s.barrier (barrierKey 1 0 4)).members = [] ∧ Tab.rising s.barriers = true) := by
  decide +kernel

/-- WAITC for no outstanding copies, of a group with one that runs and with one that has finished. -/
theorem meets_WaitcWaits :
    (wState.withOp .started).th.act Guard.always ≠ 0
    ∧ (let counted (u : State) (g : Nat) (tile : Bool) := u.ops.filter fun x => x.2.grp == g && x.2.tile == tile
       (counted ((wState.withOp .started).flush 0) 0 false).map (fun x => (x.1, x.2.st)) = [(0, .started)]
       ∧ (counted ((wState.withOp .finished).flush 0) 0 false).map (fun x => (x.1, x.2.st)) = [(0, .finished)]
       ∧ counted ((wState.withOp .finished).flush 0) 0 true = [] ∧ (0 : Nat) + 0 < 1)
    ∧ (((wState.withOp .finished).flush 0).op 0).joined = false
    ∧ (∀ o ∈ ((wState.withOp .finished).flush 0).ops, o.2.fault = none)
    ∧ (wState.withOp .finished).grp.region.depth = 0
    ∧ ((((wState.withOp .finished).flush 0).op 0).grp = 0)
    ∧ (((wState.withOp .finished).setGrp { wState.grp with wait := .waitc ⟨255, 255, 0, 255⟩ }).group 0).wait
        = .waitc ⟨255, 255, 0, 255⟩ := by
  decide +kernel

/-- Group 0 waits. -/
def wWaiting (w : Wait) (st : OpState) : State := (wState.withOp st).setGrp { wState.grp with wait := w }

theorem meets_WaitsEnd :
    ((wWaiting .yield .finished).group 0).retired = false ∧ ((wWaiting .yield .finished).group 0).wait = .yield
    ∧ ((wWaiting (.yieldc 0 16) .finished).group 0).wait = .yieldc 0 16 ∧ ((wWaiting (.yieldc 0 16) .finished).chan 0 0).queue = []
    ∧ ((wWaiting (.yieldc 0 16) .finished).joinAll 0 ((wWaiting (.yieldc 0 16) .finished).chanOps 0 0)).1 = none
    ∧ ((wWaiting (.chcfg 0) .finished).group 0).wait = .chcfg 0 ∧ ((wWaiting (.chcfg 0) .started).chan 0 0).queue ≠ []
    ∧ ((wWaiting .endJoin .finished).group 0).wait = .endJoin
    ∧ (∀ o ∈ (wWaiting .endJoin .finished).opsOf 0, o.2.st = .finished)
    ∧ ((wWaiting (.watermark [(0, 5)]) .finished).group 0).wait = .watermark [(0, 5)]
    ∧ (∀ p ∈ [(0, 5)], ((wWaiting (.watermark [(0, 5)]) .finished).chan 0 p.1).queue = []) := by
  decide +kernel

/-! ### Hypotheses met: copies and the matrix array -/

/-- Scratchpad of block 0: a copy record of two FP32 elements at 0, and a format block of FP8 elements at 128. -/
def wScratch : Cells :=
  let k := scratchKey 0
  wCells k 0x400 ++ wCells (k + 8) 0x600 ++ wCells (k + 16) 0x289 ++ wCells (k + 24) 0x0001000100010002
    ++ wCells (k + 128) 0x0D ++ wCells (k + 144) 0x0D

/-- The shape records of one line of 32 elements in the scratchpad (s10, s11) and the B store (s12, s13), one of a tile of
one FP32 element (s14, s15). -/
def wCopying : State :=
  { wState.setRegs ((((((wRegs.setScal 10 0x0000002000000400).setScal 11 0x0000002000200001).setScal 12 0x0000002000000000).setScal 13
      0x0001000000010020).setScal 14 0x0000000400000400).setScal 15 0x0000000400010001) with
    mem := wMemory ++ wScratch }

/-- CPY, FSEND, SPRED of 64 bytes from the scratchpad; and CPYX, CPYA and CPYD of the record at s0. -/
theorem meets_CopiesIssueAndRun :
    wCopying.th.act Guard.always ≠ 0 ∧ wCopying.Outside ∧ wCopying.chanFull 3 = false
    ∧ (wCopying.th.regs.scal 2).toNat % 8 = 0 ∧ fabOff (wCopying.th.regs.scal 0).toNat = 0
    ∧ wCopying.issueBounds (.cpy .own .glob 64 128 64) = none
    ∧ wCopying.issueBounds (.fsend true 0 128 64) = none ∧ wCopying.issueBounds (.spred true 0 128 16) = none
    ∧ (wCopying.th.regs.scal 0).toNat % 64 = 0
    ∧ (match (wCopying.recWords true 0 16 0 []).1 with
       | .words ws => ws.length == 9 && [0, 1, 2].all fun k => ((wCopying.recWords true 0 16 0 []).2.recFault k 0 ws).isNone
       | _ => false) = true
    ∧ ((wState.withOp .queued).block 0).st ≠ .saved
    ∧ ((wState.withOp .queued).chan 0 0).queue.find? (fun o => ((wState.withOp .queued).op o).st == .queued) = some 0
    ∧ ((wState.withOp .started).op 0).st = .started ∧ ((wState.withOp .started).op 0).paging = none
    ∧ ((wState.withOp .started).op 0).todo = [] ∧ ((wState.withOp .started).op 0).sent = [] ∧ ((wState.withOp .started).op 0).pairs = []
    ∧ ((wState.withOp .started).op 0).fault = none := by
  unfold State.Outside
  decide +kernel

/-- CHCFG and YIELDC of an idle channel and of one at work; s2 and s4 are the base and length of a range. -/
theorem meets_ChannelInstructions :
    wState.th.act Guard.always ≠ 0 ∧ wState.Outside ∧ (wState.withOp .started).Outside
    ∧ ((wState.withOp .started).chan 0 0).queue ≠ [] ∧ ((wState.withOp .finished).chan 0 0).queue = []
    ∧ ((wState.withOp .finished).joinAll 0 ((wState.withOp .finished).chanOps 0 0)).1 = none
    ∧ ((wState.withOp .finished).joinAll 0 ((wState.withOp .finished).chanOps 0 0)).2.chcfgFault .own 128 256 = none := by
  unfold State.Outside
  decide +kernel

/-- A queue of 40 elements, the first 32 written. -/
def wQueue : RQueue :=
  { elems := (List.range 40).map (fun i => (i, ⟨4, BitVec.ofNat 32 i, false, decide (i < 32)⟩)), ie := 40, ib := 160 }

/-- Block 0 with that queue as queue 0, and with 8 of its elements claimed as queue 1. -/
def wQueued : State :=
  { wCopying with blocks := [(0, { groups := [0, 1], queues := [(0, wQueue), (1, { wQueue with ce := 8, cb := 32 })] })] }

theorem meets_MatrixInstructions :
    wQueued.th.act Guard.always ≠ 0 ∧ wQueued.Outside ∧ wQueued.arrayFull = false ∧ wQueued.counterFull true = false
    ∧ (2 : Nat) < (wQueued.launch (wQueued.block 0).launch).kernel.tiles
    ∧ (wQueued.th.regs.scal 2).toNat % 64 = 0 ∧ (wQueued.th.regs.scal 2).toNat + 64 ≤ wQueued.scratchOf 0
    ∧ (match (wQueued.recWords true 128 8 0 []).1 with
       | .words ws => (mmaFault (Shape.of (wQueued.th.regs.shape 10)) (Shape.of (wQueued.th.regs.shape 12)) ws 4096).isNone
       | _ => false) = true
    ∧ (tloadFault (Shape.of (wQueued.th.regs.shape 14)) 4096).isNone = true
    ∧ (wQueued.rqueue 0 0).ib - (wQueued.rqueue 0 0).cb + 4 ≤ 65536
    ∧ 32 ≤ (wQueued.rqueue 0 0).ie - (wQueued.rqueue 0 0).ce ∧ (wQueued.rqueue 0 0).written 0 32 = true
    ∧ (∀ l, l < 32 → (((wQueued.rqueue 0 0).elems.find? (0 + l)).getD ⟨4, 0, false, true⟩).poison = false)
    ∧ 32 ≤ (wQueued.rqueue 0 1).ie - (wQueued.rqueue 0 1).ce ∧ (wQueued.rqueue 0 1).written 8 32 = false
    ∧ (wQueued.th.regs.scal 2).toNat + (wQueued.rqueue 0 0).bytesOf 0 16 ≤ wQueued.scratchOf 0
    ∧ (wQueued.th.regs.scal 2).toNat < 2 ^ 56 := by
  unfold State.Outside
  decide +kernel

/-- An array command on core 0: queued, or started. -/
def wArray (kind : OpKind) (st : OpState) : State :=
  { wQueued with
    ops := [(0, { grp := 0, block := 0, core := 0, chan := none, kind := kind, st := st, tile := true })]
    cores := [(0, { lmap := 0xFFFFFFFFFFFFFFFF, arrayQ := if st = .queued then [0] else [] })] }

/-- A drain of one FP32 element of tile 2 to the last element of queue 0. -/
def wDrain : TdrainOp := ⟨0, false, 2, .rn, false, .f32, 0, 0, 0⟩

/-- A ready TZERO; a started TZERO, TDRAIN, TLOAD and MMA; and two QPOPs that wait. -/
theorem meets_ArrayCommandsRun :
    (wArray (.tzero 2) .queued).nextArray 0 = some (0, 0)
    ∧ (wArray (.tzero 2) .started).arrayRunning 0 = [0] ∧ ((wArray (.tzero 2) .started).op 0).kind = .tzero 2
    ∧ (wArray (.tdrain 0 39 4 wDrain) .started).arrayRunning 0 = [0] ∧ (0 : Nat) < 1
    ∧ ((wQueued.rqueue 0 0).elems.find? (39 + 0)).map (·.written) = some false
    ∧ ((wQueued.rqueue 0 0).elems.find? (31 + 0)).map (·.written) = some true
    ∧ (match ((wArray (.tload 2 (wQueued.th.regs.shape 14)) .started).readLines 0 (Shape.of (wQueued.th.regs.shape 14))
          ⟨.f16, false, 0⟩ .own 2 [0]).1 with | .ok ls => ls.length == 1 | .error _ => false) = true
    ∧ (Shape.of (wQueued.th.regs.shape 14)).cols ≤ 128
    ∧ (formatEntry [0x0D, 0, 0x0D, 0] 0 false).isSome = true ∧ (formatEntry [0x0D, 0, 0x0D, 0] 0 true).isSome = true
    ∧ (match ((wArray (.mma 2 (wQueued.th.regs.shape 10) (wQueued.th.regs.shape 12) [0x0D, 0, 0x0D, 0] true) .started).readLines 0
          (Shape.of (wQueued.th.regs.shape 10)) ⟨.e4m3, false, 0⟩ .own 32 [0]).1 with | .ok ls => ls.length == 1 | .error _ => false)
        = true
    ∧ (let k : OpKind := .mma 2 (wQueued.th.regs.shape 10) (wQueued.th.regs.shape 12) [0x0D, 0, 0x0D, 0] true
       let uses (s : State) : List Nat :=
         match s.readUses 0 (Shape.of (wQueued.th.regs.shape 10)) ⟨.e4m3, false, 0⟩ .own 32 2 [0, 1] with
         | (.ok ls, _) => ls.map (·.length)
         | (.error _, _) => []
       uses (wArray k .started) = [1, 1]
       ∧ [0, 1].map (fun r => { (wArray k .started).op 0 with got := [(operandKey .own 1024, [⟨7, false⟩])] }.hasRead
           (lineParts (Shape.of (wQueued.th.regs.shape 10)) ⟨.e4m3, false, 0⟩ .own r 32)) = [true, false])
    ∧ [0].length ≤ 128
    ∧ (let s := (wArray (.tdrain 0 39 4 wDrain) .started).modQueue 0 0 fun q =>
         { q with elems := q.elems.put 39 { width := 4, val := 0, poison := false, written := false } }
       (s.op 0).st = .started ∧ (s.op 0).kind = .tdrain 0 39 4 wDrain
       ∧ ((s.rqueue 0 0).elems.find? (39 + 0)).map (·.written) = some false)
    ∧ AFmt.block .bx8 = true ∧ AFmt.block .e4m3 = false ∧ ([0x41][0]?).getD 0 < 2 ^ (6 + 2)
    ∧ [(⟨false, 1, 0⟩ : Term), ⟨true, 2, 1⟩].Perm [⟨true, 2, 1⟩, ⟨false, 1, 0⟩]
    ∧ ((wQueued.setGrp { wQueued.grp with wait := .qpop 0 0 0xFFFFFFFF 4 8 }).group 0).wait = .qpop 0 0 0xFFFFFFFF 4 8
    ∧ ((wQueued.rqueue 0 0).written 0 32 = true) ∧ (wQueued.rqueue 0 1).written 8 32 = false := by
  decide +kernel

/-! ### Hypotheses met: named lines -/

/-- A context with one domain, a pin log of 8 entries, and a view window of 64 KiB at 0x10000. -/
def wDesc : List DWord := [0x100000, 1, 0, 0, 0] ++ List.replicate 24 0 ++ [8, 0x300000]

/-- Domain 0 holds line 5, pinned once; a root slot at 0x400000 names it, with 256 bytes and generation 3; a line lies at
offset 512 of the scratchpad; s10 to s13 hold the name, its meta word and the generation, s14 the slot and s15 the window. -/
def wNamed : State :=
  { wState.setRegs ((((((wRegs.setScal 10 5).setScal 11 0).setScal 12 256).setScal 13 3).setScal 14 0x400000).setScal 15 0x10000) with
    mem := wMemory.takeWhile (fun c => c.1 < 0x102010) ++ wCells 0x102010 0xA00101 ++ wCells 0x300000 0x10000
      ++ wCells 0x300008 0x8000000000010000 ++ wCells 0xA00000 5 ++ wCells 0xA00010 256 ++ wCells 0xA00018 3
      ++ wCells (scratchKey 0 + 512) 9
    contexts := [(0, { desc := wDesc, pins := [⟨5, 0, 1⟩] })]
    domains := [(0, { key := List.replicate 32 1, frames := [0x800000], roots := [0xA00000],
                      lines := [⟨5, leMBytes 256 1, 2, false⟩], reclaim := [5] })] }

/-- The same with the window bound. -/
def wBound : State := wNamed.modCtx 0 fun c => { c with bound := [⟨0, 0, 5, 0, 256⟩] }

theorem meets_NamedInstructions_lines :
    wNamed.th.act Guard.always ≠ 0 ∧ wNamed.Outside ∧ wNamed.flush wNamed.cur = wNamed ∧ wNamed.Inv
    ∧ (match wNamed.lineAt 512 with | .ok l => l == scratchKey 0 + 512 | .error _ => false) = true
    ∧ wNamed.regionOf 0 = some 0 ∧ wNamed.blockers 0 512 (scratchKey 0 + 512) 256 none = []
    ∧ (let p := wNamed.engineRead 0 (wNamed.engineMust 0) [] (scratchKey 0 + 512) 256
       !anyPoison p.1 && !isZeroLine 0 p.1) = true
    ∧ (wNamed.lineBytes 0 (wNamed.th.regs.name 10)).isSome = true
    ∧ (match wNamed.pinned ⟨false, 9, 10, 0⟩ with | .ok (d, n) => d == 0 && n == 5 | .error _ => false) = true
    ∧ nameReal 5 = true ∧ (wNamed.ctx 0).pinsOn 0 5 ≠ 0
    ∧ (((wNamed.domain 0).find 5).map (·.immortal)) = some false := by
  unfold State.Outside State.Inv
  decide +kernel

/-- A domain without lines. -/
def wEmpty : State := wNamed.modDomain 0 fun d => { d with lines := [], reclaim := [] }

theorem leVal_lt (bs : List Byte) : leVal bs < 256 ^ bs.length := by
  induction bs with
  | nil => simp [leVal]
  | cons b t ih =>
    have := b.isLt
    simp only [leVal, List.length_cons, Nat.pow_succ]
    omega

/-- Every line that is not all zero is absent there: its leaf name is new, the pin log has room, and so has the pool. -/
theorem meets_NamedInstructions_absent (x : List Byte) :
    let n := mkName 0 0 (lineHash (wEmpty.domain 0).key x 0)
    isZeroLine 0 (leMBytes 256 1) = false ∧ (wEmpty.domain 0).lookup x 0 = .absent n ∧ nameKind n = 0
    ∧ (wEmpty.ctx 0).canPin 0 n = true ∧ wEmpty.freeOn 0 (nameStack n) ≠ 0 := by
  have hd : wEmpty.domain 0 = { key := List.replicate 32 1, frames := [0x800000], roots := [0xA00000] } := by decide +kernel
  have hp : (wEmpty.ctx 0).pins = [⟨5, 0, 1⟩] := by decide +kernel
  have hf : (wEmpty.ctx 0).field 29 31 0 = 8 := by decide +kernel
  have hl : lineHash (wEmpty.domain 0).key x 0 < 2 ^ 120 := by
    exact Nat.lt_of_lt_of_le (leVal_lt _)
      (Nat.le_trans (Nat.pow_le_pow_right (by decide : 0 < 256) (List.length_take_le 15 _)) (by decide))
  refine ⟨by decide +kernel, ?_, ?_, ?_, ?_⟩
  · simp [Domain.lookup, Domain.scan, Domain.find, hd]
  · have h : (mkName 0 0 (lineHash (wEmpty.domain 0).key x 0)).toNat = lineHash (wEmpty.domain 0).key x 0 := by
      simp only [mkName, BitVec.toNat_ofNat, Nat.zero_mul, Nat.zero_add]
      omega
    rw [nameKind, h]
    omega
  · unfold Ctx.canPin Ctx.pinsOn
    rw [hp, hf]
    cases hc : (List.find? (fun p : Pin => p.name == mkName 0 0 (lineHash (wEmpty.domain 0).key x 0) && p.dom == 0)
        [⟨5, 0, 1⟩]) with
    | none => simp
    | some p =>
      have : p = ⟨5, 0, 1⟩ := by simpa using List.mem_of_find?_eq_some hc
      simp [this]
  · have h8 : ∀ k, k < 8 → wEmpty.freeOn 0 k ≠ 0 := by decide +kernel
    exact h8 _ (Nat.mod_lt _ (by decide))

/-- NPUT of a node whose 16 children are line 5. -/
theorem meets_NamedInstructions_node :
    childNames ((List.range 16).flatMap fun _ => leMBytes 16 5) = List.replicate 16 5
    ∧ nameValid 5 = true ∧ wNamed.allocated 0 5 = true := by
  decide +kernel

theorem meets_NamedInstructions_roots :
    (match (wNamed.slotAt 0x400000).1 with | .ok p => p == (0xA00000, 0) | .error _ => false) = true
    ∧ (let s := (wNamed.slotAt 0x400000).2
       (s.blockers 0 0x400000 0xA00000 32 none).isEmpty && s.rootNameOk 0 (wNamed.th.regs.name 10) && metaOk 256
       && [Order.relaxed, .ar].all fun o =>
         let p := (s.joinBelow 0 0x400000 0xA00000 32).slotRelease o 3 2
         p.1.isNone && !anyPoison (p.2.2.homeBytes 0xA00000 32)
           && slotWord (p.2.2.homeBytes 0xA00000 32) 3 % 2 ^ 32 == 3) = true
    ∧ 0x400000 % 32 = 0 ∧ 0x10000 % 65536 = 0
    ∧ wNamed.windowAt 0 0x10000 = some (0, 65536) ∧ (wNamed.slotAt 0x400000).2.windowAt 0 0x10000 = some (0, 65536)
    ∧ ((wNamed.ctx 0).view 0).isSome = false ∧ ((wBound.ctx 0).view 0).isSome = true
    ∧ (let bs := (wNamed.slotAt 0x400000).2.homeBytes 0xA00000 32
       !anyPoison bs && (wNamed.ctx 0).canPin 0 (slotName bs) && decide (metaLen (slotWord bs 2) ≤ 65536)) = true := by
  decide +kernel

theorem meets_NamedInstructions_rest :
    wNamed.chanFull 3 = false ∧ (wNamed.th.regs.scal 2).toNat % 4 = 0 ∧ metaLen 256 % 4 = 0
    ∧ wNamed.issueBounds (.ncopy .own 128 0 5 (metaDepth 256) (metaLen 256)) = none ∧ metaOk 256 = true
    ∧ (wNamed.pin 0 0 5).1 = true ∧ nameValid 5 = true
    ∧ (List.find? (fun (x : Nat × Domain) => !x.2.reclaim.isEmpty) wNamed.domains).map (·.1) = some 0 := by
  decide +kernel

/-! ### Hypotheses met: speculation and the system -/

/-- An open region of depth d over the first eight lanes, in mode m, with c as pending CONFLICT lanes. -/
def wTrying (d : Nat) (m : Bool) (c : Mask) : State :=
  wState.setGrp { wState.grp with
    th := { wState.th with stack := [.tryE 16] }, conflict := c
    region := { depth := d, mode := m, rm := 0xFF, entry := 0xFF, ckRegs := wRegs
                buffer := [⟨3, ⟨0, 5⟩, ⟨640, leMBytes 4 7, 640, false⟩⟩] } }

/-- A state in which only some lanes execute. -/
def wLow (s : State) (m : Mask) : State := s.setTh { s.th with exec := m }

theorem meets_SpeculativeRegions :
    wState.th.act Guard.always ≠ 0 ∧ wState.grp.region.depth = 0
    ∧ (let s := wLow (wTrying 1 false 0) 0xFF
       s.th.act Guard.always &&& ~~~s.grp.region.rm = 0 ∧ s.grp.region.depth = 1)
    ∧ (wTrying 2 false 0).grp.region.depth = 2 ∧ 4 ≤ (wTrying 4 false 0).grp.region.depth
    ∧ (let s := wLow (wTrying 4 false 0) 0xFF
       s.th.act Guard.always &&& ~~~s.grp.region.rm = 0)
    ∧ (let s := wTrying 2 false 0
       s.th.act Guard.always &&& ~~~s.grp.region.rm ≠ 0 ∧ s.grp.hnd = none ∧ s.th.stack = [] ++ .tryE 16 :: [])
    ∧ savedAtTry [.frame wFrame, .tryE 16] = some wRegs
    ∧ (let s := wLow (wTrying 1 false 0) 0x0F
       let x := (s.flush s.cur).grp
       x.conflictDue = false ∧ x.preemptDue = false ∧ s.th.act Guard.always &&& s.grp.region.rm ≠ 0
       ∧ s.grp.region.rm &&& ~~~(s.th.act Guard.always &&& s.grp.region.rm) &&& s.th.live ≠ 0)
    ∧ (let s := wLow (wTrying 1 false 0) 0xFF
       s.grp.region.rm &&& ~~~(s.th.act Guard.always &&& s.grp.region.rm) &&& s.th.live = 0)
    ∧ wState.th.act ⟨1, false⟩ ≠ 0 ∧ wState.th.act ⟨1, false⟩ &&& wState.grp.rm = 0
    ∧ (wTrying 1 false 0).th.act Guard.always &&& (wTrying 1 false 0).grp.rm ≠ 0
    ∧ savedAtTry (wTrying 1 false 0).th.stack = none ∧ (wTrying 1 false 0).grp.region.mode = false
    ∧ (wTrying 1 true 0).grp.region.mode = true ∧ belowTry (wTrying 1 true 0).th.stack = some (16, [])
    ∧ ((wTrying 1 false 2).group 0).atBoundary = true ∧ ((wTrying 1 false 2).group 0).conflictDue = true
    ∧ ((wTrying 1 false 2).group 0).region.depth ≠ 0
    ∧ (Instr.yield ⟨true⟩).unsupported = true ∧ (Instr.yield ⟨true⟩).guardLen = some (Guard.always, 16)
    ∧ (wRegion [] []).th.act Guard.always &&& (wRegion [] []).grp.rm ≠ 0
    ∧ (wRegion [] []).th.act Guard.always &&& ~~~(wRegion [] []).grp.rm = 0 := by
  decide +kernel

/-- The stack limit of the executing group is 4096. -/
def wLimited : State := wState.setGrp { wState.grp with stklim := 4096 }

theorem meets_SystemInstructions :
    wState.th.act Guard.always ≠ 0 ∧ wState.Outside ∧ wLimited.Outside ∧ wLimited.grp.hnd = none
    ∧ wLimited.env.uval (.imm32 4095) 64 < wLimited.grp.stklim.toNat
    ∧ wLimited.grp.stklim.toNat ≤ wLimited.env.uval (.imm32 4096) 64
    ∧ wState.env.uval (.imm32 11) 64 < 12 ∧ 12 ≤ wState.env.uval (.imm32 12) 64 ∧ wState.grp.passes = 0
    ∧ perfFree wState.grp 5 = false ∧ perfFree (wState.grp.owe 11 1) 11 = true ∧ perfFree (wState.grp.owe 1 1) 1 = true
    ∧ 0 < (wState.launch (wState.block 0).launch).field 1 31 0 ∧ 0 < (wState.launch (wState.block 0).launch).field 1 63 32 := by
  unfold State.Outside
  decide +kernel

/-! ### Hypotheses met: launches, service and pre-emption -/

/-- A descriptor of a context with four queues, whose control blocks stand at 0x500000, and which is of gang 3. -/
def wQueues : List DWord :=
  [0x100000, 1, 0, 0, 0] ++ List.replicate 29 0 ++ [0x8000000000000003, 0x500000, 4] ++ List.replicate 27 0

/-- Queue 1 of that context is enabled and mapped, with one record, at virtual address 0x3000; queues 2 and 3 are enabled in their control
blocks, and 3 pends there. Launch 0 is in step 4, launch 1
has no waits, and launch 2 waits for a word that is zero. -/
def wLaunching : State :=
  { wState with
    mem := wMemory.takeWhile (fun c => c.1 < 0x500000) ++ wCells 0x500088 0x100000000 ++ wCells 0x5000C8 0x100000000
      ++ wCells 0x5000D8 1 ++ wMemory.dropWhile fun c => c.1 < 0x500000
    contexts := [(0, { desc := wQueues, clusters := [0] })]
    queues := [(1, { enabled := true, base := 0x3000, rd := 4, wr := 5, slot := some 0 })]
    gangs := [(3, { begun := true })]
    groups := [], blocks := [], barriers := []
    launches := [(0, { st := .placing, kernel := wKernel, consts := wKernel.consts
                       record := [0, 0x0000000100000001, 0x100000001] }),
                 (1, { queue := 2 }), (2, { queue := 3, record := [0, 0, 0, 0, 0, 0, 0x2000, 1] }),
                 (3, { queue := 4, st := .placing, kernel := { wKernel with tiles := 5 }, record := [0, 0x100000001, 0x400000004] })]
    trans := [(0, { wTrans with issued := 4294967297 })] }

theorem meets_LaunchEvents_queues :
    wLaunching.ctxOfFn 0 = some 0 ∧ 1 < (wLaunching.ctx 0).field 36 9 0
    ∧ (let x := (wLaunching.readQcb 0 1).queue 0 1
       x.enabled = true ∧ x.slot.isSome = true ∧ 2 ^ x.log2 < (7 - x.rd).toNat ∧ ¬2 ^ x.log2 < (5 - x.rd).toNat
       ∧ ¬2 ^ 31 ≤ ((5 : BitVec 32) - x.wr).toNat)
    ∧ (let x := (wLaunching.readQcb 0 2).queue 0 2
       x.enabled = true ∧ x.slot = none ∧ x.pend = false ∧ ¬2 ^ x.log2 < (1 - x.rd).toNat ∧ ¬2 ^ 31 ≤ ((1 : BitVec 32) - x.wr).toNat)
    ∧ (let x := (wLaunching.readQcb 0 3).queue 0 3
       x.enabled = true ∧ x.pend = true ∧ ¬2 ^ x.log2 < (1 - x.rd).toNat ∧ ¬2 ^ 31 ≤ ((1 : BitVec 32) - x.wr).toNat)
    ∧ (let x := wLaunching.queue 0 1
       x.slot.isSome = true ∧ x.enabled = true ∧ x.err = false ∧ x.rd ≠ x.wr
       ∧ (wLaunching.readVirtual 0 ((x.base.toNat + 128 * (x.rd.toNat % 2 ^ x.log2)) % 2 ^ 64) 128).isSome = true)
    ∧ (wLaunching.launches.find? 1).isSome = true ∧ (wLaunching.launch 1).st = .waiting ∧ wLaunching.waits 1 = .met
    ∧ (wLaunching.launches.find? 2).isSome = true ∧ (wLaunching.launch 2).st = .waiting ∧ wLaunching.waits 2 = .wait
    ∧ wLaunching.trans.find? 0 = some { wTrans with issued := 4294967297 } ∧ (wLaunching.domain 0).reopt < 4294967297
    ∧ wState.trans.find? 0 = some wTrans ∧ wTrans.issued ≤ (wState.domain 0).reopt := by
  decide +kernel

/-- Launch l has begun step 4. -/
def wLaunching.begun (l : Nat) : State := wLaunching.setLaunch l { wLaunching.launch l with began := true }

theorem meets_LaunchEvents_places :
    (wLaunching.launch 0).toPlace = true ∧ wLaunching.previousPlacing 0 = true ∧ wLaunching.gangOpen 0 = true
    ∧ (wLaunching.launch 0).placed = 0 ∧ (wLaunching.begun 0).noFit 0 = false ∧ (wLaunching.launch 0).kernel.cosched = false
    ∧ 1 ≤ (wLaunching.launch 0).csize
    ∧ (wLaunching.launch 0).placed * (wLaunching.launch 0).csize < (wLaunching.launch 0).nBlocks
    ∧ ((wLaunching.begun 0).placeNext 0).isSome = true
    ∧ (wLaunching.launch 3).toPlace = true ∧ wLaunching.previousPlacing 3 = true
    ∧ (wLaunching.launch 3).placed = 0 ∧ (wLaunching.begun 3).noFit 3 = true := by
  decide +kernel

/-- The block stands so, with release m of its retirement, and the launch is aborted or not. -/
def wEnding (st : BlockState) (m : Option Nat) (aborted : Bool) (ms : Option (List Nat)) : State :=
  { wState with
    blocks := [(0, { st := st, rel := m, groups := [0, 1] })], rels := [(7, ⟨0, 3, 6, [], [], true, false⟩)]
    launches := [(0, { wState.launch 0 with aborted := aborted, rels := ms })] }

theorem meets_LaunchEvents_ends :
    ((wEnding .retiring none false none).block 0).st = .retiring ∧ (wEnding .retiring none false none).opsRunning 0 = false
    ∧ ((wEnding .retiring none false none).launch 0).aborted = false
    ∧ ((wEnding .retiring none false none).block 0).rel = none
    ∧ ((wEnding .retiring none false none).block 0).groups = 0 :: [1]
    ∧ (wEnding .retiring none true none).opsRunning 0 = false ∧ ((wEnding .retiring none true none).launch 0).aborted = true
    ∧ ((wEnding .retiring (some 7) false none).block 0).rel = some 7
    ∧ (wEnding .retiring (some 7) false none).relDone 7 = true
    ∧ (wEnding .retired none false none).gridRetired 0 = true ∧ ((wEnding .retired none false none).launch 0).rels = none
    ∧ (wEnding .retired none false (some [7])).gridRetired 0 = true
    ∧ ((wEnding .retired none false (some [7])).launch 0).rels = some [7]
    ∧ (let s := { wLaunching with domains := [], trans := [(0, wTrans)] }
       s.trans.find? 0 = some wTrans ∧ wTrans.asking = false ∧ s.trdomReady wTrans.dom = false
       ∧ (s.launches.find? 0).isSome = true ∧ s.needsTrans 0 wTrans = true) := by
  decide +kernel

/-- A page fault of group 0. -/
def wFault : FaultInfo := ⟨1, 0x800000, 1, 0, 0, 0, 8, 0, false⟩

def wPaging : State :=
  (wState.setGrp { wState.grp with wait := .page wFault }).modCore 0 fun k => { k with stall := [0] }

/-- Group g is in an idempotent region since word 0. -/
def wIdem (x : Group) : Group := { x with idem := [⟨0, x.th, 0, {}, [], 0, 0, 0⟩], np := false }

/-- A pre-emption of cluster 0 is due, taken or not; both groups can be discarded, and so the unit is to be or not. -/
def wPreempting (taken discard : Bool) : State :=
  { wState with groups := wState.groups.mapVals fun _ x => wIdem x
                clusters := [(0, { preempt := true, taken := taken, discard := discard })]
                launches := [(0, { wState.launch 0 with kernel := { wKernel with idem := [(0, 8)] } })] }

/-- A discarded unit of block 0. -/
def wUnit : MoveUnit := { blocks := [0], discarded := true, bstore := [] }

/-- The block is saved as a unit, to be restored on cluster 0. -/
def wSaved : State :=
  { wState with blocks := [(0, { groups := [0, 1], st := .saved })], units := [(0, wUnit)]
                contexts := [(0, { desc := [0x100000, 1, 0, 0, 0], clusters := [0] })] }

theorem meets_ServiceAndPreemption_taken : ∀ taken discard : Bool,
    let s := wPreempting taken discard
    s.preemptible 0 = true ∧ s.residentOn (s.unitClusters 0) = [0] ∧ (s.cluster 0).taken = taken
    ∧ (s.cluster 0).discard = discard ∧ s.discardable [0] = true ∧ 0 ∈ s.unitClusters 0
    ∧ ((s.groupsIn [0]).any fun x => x.2.overrun) = false
    ∧ (((s.setGrp { s.grp with overrun := true }).groupsIn [0]).any fun x => x.2.overrun) = true
    ∧ (s.poolSmall discard [0] [0]).1 = true
    ∧ (let s := { s with contexts := [(0, { desc := wQueues, clusters := [0] })], gangs := [(3, { aborting := true })] }
       (s.poolSmall discard [0] [0]).1 = false) := by
  decide +kernel

theorem meets_ServiceAndPreemption :
    wPaging.Inv ∧ (wPaging.group 0).wait = .page wFault ∧ (wPaging.group 0).hnd = none
    ∧ (wPaging.core 0).stall ≠ []
    ∧ (let s := wState.setGrp { wState.grp with np := true }
       (s.group 0).np = true ∧ (s.group 0).retired = false)
    ∧ wPaging.units = []
    ∧ (({ wPaging with units := [(0, wUnit)] } : State).units.any fun u => u.2.discarded && u.2.blocks.contains (wPaging.group 0).block)
        = true
    ∧ (let s : State := { wState with clusters := [(0, { preempt := true, taken := true, discard := true })] }
       s.preemptible 0 = true ∧ s.residentOn (s.unitClusters 0) = [0] ∧ s.discardable [0] = false ∧ (s.poolSmall false [0] [0]).1 = true)
    ∧ wSaved.units.find? 0 = some wUnit ∧ wSaved.gangOpen (wSaved.ctxOfBlock 0) = true
    ∧ (∀ y ∈ wSaved.groupsIn [0], y.2.serviced = none) ∧ (wSaved.moveUnit 0 wUnit [0]).isSome = true
    ∧ (wState.contexts.find? 0).isSome = true ∧ wState.unitClusters 0 = [0]
    ∧ ((wState.block 0).st = .resident ∧ wState.ctxOfBlock 0 = 0 ∧ clusterOf (wState.block 0).core = 0) := by
  unfold State.Inv
  decide +kernel

/-! ### Hypotheses met: reliability, boot, management and fabric -/

/-- Cluster 1 is under test, and core 9 drains for a fuse. -/
def wTesting : State :=
  { wState with clusters := [(0, {}), (1, { underTest := true })], cores := [(0, wState.core 0), (9, { fuseDue := true })] }

theorem meets_ReliabilityAndBoot :
    (wState.modCtx 0 fun c => { c with redundant := true }).redundantOn 0 = true
    ∧ (wTesting.core 9).fuseDue = true ∧ wTesting.coreBusy 9 = false ∧ (wTesting.cluster 0).inService = true
    ∧ (wTesting.cluster 0).underTest = false ∧ (wTesting.cluster 1).underTest = true ∧ wTesting.blocksOnCluster 1 = []
    ∧ 15 ∉ wState.mallets ∧ (∃ i, i < 4 ∧ 4 * (15 / 4) + i ∉ 15 :: wState.mallets)
    ∧ (let s : State := { wState with mallets := [12, 13, 14] }
       15 ∉ s.mallets ∧ ∀ i, i < 4 → 4 * (15 / 4) + i ∈ 15 :: s.mallets)
    ∧ ([20] : List Nat)[0]? = some 20 ∧ 0 ∉ wState.hotDies
    ∧ (∀ step, takesAlternate State.reset.journal (State.reset.bootCount + 1) step = false)
    ∧ State.reset.firmwareCounter ≤ State.reset.fwVersions.1
    ∧ ∀ x ∈ ([⟨true, true⟩] : List BootTry), x.primaryOk = true := by
  refine ⟨?_, ?_, ?_, ?_, ?_, ?_, ?_, ?_, ?_, ?_, ?_, ?_, fun step => rfl, ?_, ?_⟩ <;> decide +kernel

theorem meets_ReliabilityAndBoot_tiles :
    (wQueued.blocks.find? 0).map (·.st) = some .resident ∧ 3 < (wQueued.launch 0).kernel.tiles
    ∧ tileKey 0 3 127 < resultKey 0 0 0 ∧ resultKey 0 7 (2 ^ 64 - 1) < copyKey 0 0
    ∧ ((wQueued.rqueue 0 0).elems.find? 31).map (·.written) = some true := by
  decide +kernel

/-- A served command with these operand words. -/
def wCmd (ops : List DWord) : Cmd := ⟨0, 7, ops.length, 0, ops, []⟩

/-- A descriptor of zeros stands at 0x10000, and no block is left. -/
def wIdle : State := { wLaunching with launches := [], sriov := true }

theorem meets_ContextCommands :
    Served (wCmd [5, 0x10000]) 2 wIdle ∧ wIdle.hasCtx 5 = false ∧ wIdle.hasCtx 0 = true ∧ wIdle.sriov = true
    ∧ descriptorOk ((List.range 64).map fun i => wIdle.homeWord (0x10000 + 8 * i)) = true
    ∧ wIdle.ctxOfFn 1 = some 0 ∧ wIdle.holdsBlock 0 = false
    ∧ (wCmd [0x50000, 9]).op 0 = (wCmd [0x50000, 9]).bits 0 5 0 + (wCmd [0x50000, 9]).bits 0 21 16 * 2 ^ 16
    ∧ descriptorOk ((wIdle.ctx 0).desc.set 5 9) = true
    ∧ (wCmd [0x100]).op 0 = (wCmd [0x100]).bits 0 5 0 + (wCmd [0x100]).bits 0 8 8 * 2 ^ 8
    ∧ (wCmd [0x30000]).bits 0 24 16 < (wIdle.ctx 0).field 36 9 0 ∧ (wCmd [0x30000]).op 0 = 0 + 3 * 2 ^ 16
    ∧ (wCmd [0x1000000000030000]).bits 0 24 16 = 3 ∧ (wCmd [0x1000000000030000]).op 0 = 0 + 3 * 2 ^ 16 + 1 * 2 ^ 60
    ∧ (wCmd [0x2000000000030000]).bits 0 24 16 = 3 ∧ (wCmd [0x2000000000030000]).op 0 = 0 + 3 * 2 ^ 16 + 2 * 2 ^ 60 := by
  unfold Served
  decide +kernel

/-- Key 3 is no fused one; group 0 is halted. -/
def wHosted : State :=
  { wState.setGrp { wState.grp with wait := .halt } with
    keys := [(3, ⟨false, [], [], true, false, true, false⟩)], mem := wMemory ++ wCells 0x900000 0x2000000 ++ wCells 0x900008 0x3000000
    clusters := [(0, {}), (1, { underTest := true })] }

theorem meets_OtherCommands_slice :
    (wHosted.gang 3).aborting = false ∧ (wHosted.mailbox 0).waiting ≠ some (wCmd [3, 7], none)
    ∧ Served (wCmd [3, 7]) 2 (wHosted.later (wCmd [3, 7]) none)
    ∧ ((wHosted.later (wCmd [3, 7]) none).mailbox 0).waiting = some (wCmd [3, 7], none)
    ∧ (∀ b ∈ wHosted.blocks, b.2.st = .resident → wHosted.ctxOfBlock b.1 ∉ wHosted.gangCtxs 3)
    ∧ (∀ o ∈ wHosted.ops, o.2.st = .started → wHosted.ctxOfBlock o.2.block ∉ wHosted.gangCtxs 3) := by
  unfold Served
  decide +kernel

theorem meets_OtherCommands_memory :
    Served (wCmd [0x100, 1, 0]) 3 wHosted ∧ Served (wCmd [0, 0x10000, 0x10000]) 3 wHosted
    ∧ (wCmd [0x100, 1, 0]).op 0 = 0 + (wCmd [0x100, 1, 0]).bits 0 8 8 * 2 ^ 8 ∧ (wCmd [0x100, 1, 0]).bits 0 8 8 = 1
    ∧ (wCmd [0x70003]).op 0 = 3 + (wCmd [0x70003]).bits 0 23 16 * 2 ^ 16 ∧ wHosted.Inv
    ∧ Tab.get 0 wHosted.frames 3 ≠ BitVec.ofNat 8 7 ∧ wHosted.pageMaps (3 * 0x1000000) 0x1000000 false = false
    ∧ wHosted.pageMaps 0 0x1000000 false = true
    ∧ wHosted.pendingIn 0 (fun _ => true) = false
    ∧ (wState.setGrp { wState.grp with region := { depth := 1, buffer := [⟨0, ⟨0, 0x8003⟩, ⟨0x4000C0, leMBytes 4 7, 0xC0, false⟩⟩] }
        }).pendingIn 0 (fun _ => true) = true
    ∧ (let c := wCmd [0x10005, 1, 2, 3, 4, 0x900000, 1, 0x900008, 1]
       Served c 9 wHosted ∧ c.op 0 = c.bits 0 11 0 + c.bits 0 16 16 * 2 ^ 16
       ∧ wHosted.domainParts (wHosted.addrList (c.op 5) (c.op 6)) (wHosted.addrList (c.op 7) (c.op 8)) = true
       ∧ (∀ k, k < 8 → ∃ f ∈ wHosted.addrList (c.op 5) (c.op 6), 0 < wHosted.frameLines f k) ∧ wHosted.domains.find? 5 = none)
    ∧ (wHosted.domain 0).verify = true ∧ (wHosted.gang 3).cur = none
    ∧ (let s := wHosted.setGang 3 { cur := some ⟨7, 100, 10⟩, begun := true, saved := some ⟨[], [], [], [], [], [], []⟩ }
       (s.gang 3).cur = some ⟨7, 100, 10⟩ ∧ (s.gang 3).begun = true ∧ (s.gang 3).saved.isSome = true)
    ∧ (let s := wHosted.setGang 3 { cur := some ⟨7, 100, 10⟩ }
       (s.gang 3).cur = some ⟨7, 100, 10⟩ ∧ (s.gang 3).begun = false ∧ (7 : Nat) ≠ 8)
    ∧ (wHosted.domains.find? 0).isSome = true
    ∧ (∀ x ∈ ({ wHosted with contexts := [] } : State).contexts, x.2.binds 0 = false)
    ∧ (∀ i, i < 1 → (wHosted.homeWord (0x10000 + 8 * (2 * i + 1))).toNat < 2 ^ 32) := by
  unfold Served State.Inv
  decide +kernel

theorem meets_OtherCommands_keys :
    wHosted.booted = true ∧ (wHosted.keys.find? 3).map (·.fused) = some false ∧ wHosted.keys.find? 4 = none
    ∧ (let c := wCmd [0x70004, 0x900000, 32]
       c.op 0 = c.bits 0 4 0 + c.bits 0 8 8 * 2 ^ 8 + c.bits 0 18 16 * 2 ^ 16 ∧ c.bits 0 8 8 = 0 ∧ c.op 2 = 32)
    ∧ (let c := wCmd [0x4001]
       c.op 0 = c.bits 0 0 0 + c.bits 0 15 8 * 2 ^ 8 ∧ c.bits 0 0 0 = 1 ∧ c.bits 0 15 8 = 64 ∧ wHosted.firmwareCounter < 64)
    ∧ (let c := wCmd [0x8000]
       c.op 0 = c.bits 0 0 0 + c.bits 0 15 8 * 2 ^ 8 ∧ c.bits 0 0 0 = 0 ∧ c.bits 0 15 8 = 128 ∧ wHosted.kernelCounter < 128)
    ∧ wHosted.hasCtx 0 = true
    ∧ (List.find? (fun (y : Nat × Group) => y.2.wait == .halt && y.2.grpid == (wCmd [0, 0]).bits 1 39 32
        && !y.2.retired && (wHosted.block y.2.block).lin == (wCmd [0, 0]).bits 1 31 0
        && wHosted.ctxOfBlock y.2.block == 0) wHosted.groups).map (·.1) = some 0
    ∧ (wCmd [0x7F03]).op 0 = (wCmd [0x7F03]).bits 0 1 0 + (wCmd [0x7F03]).bits 0 14 8 * 2 ^ 8
    ∧ (wHosted.cluster 1).inService = true ∧ (wHosted.cluster 1).underTest = true ∧ wHosted.blocksOnCluster 1 = []
    ∧ (wHosted.cluster 0).underTest = false ∧ reservedCode 0xFFFF = true
    ∧ (800#64 &&& 0xFFFF000000000000 = 0) ∧ (0x8000000000000000#64 &&& 0xFFFF000000000000 ≠ 0)
    ∧ (let v := 0x0000000100100001
       v % 2 ^ 16 ≠ 0 ∧ v / 2 ^ 20 % 2 ^ 8 ≠ 0 ∧ v / 2 ^ 28 % 2 ^ 4 = 0 ∧ v / 2 ^ 32 ≠ 0) := by
  decide +kernel

/-- A packet of a type, with a job and a sequence number, from package 4. -/
def wPacket (type job : Nat) (seq : BitVec 32) : Packet := ⟨0, 4, 2, type, job, seq, 8, [0, 0, 0, 0, 0, 0, 0, 0], true, []⟩

/-- Port 1 expects packet 6 on lane 2, and has sent packets 3 and 4 to package 9. Context 0 is of gang 3, whose slice has not
begun. -/
def wFabric : State :=
  { wLaunching with
    gangs := [(3, { slices := [⟨8, 100, 10⟩], cur := some ⟨7, 100, 10⟩, sentReady := true })]
    ports := [(1, { vls := [(2, { rx := 6, unacked := [{ wPacket 6 0 3 with dst := 9 }, { wPacket 6 0 4 with dst := 9 }] })] })]
    merge := [MergeEnt.of ⟨9, 0, 5, 0, 1, [(4, 0, 1)], 0, false, false⟩] }

theorem meets_FabricAndGangs_packets :
    (wPacket 6 0 5).passes = true ∧ (wPacket 6 0 5).seq ≠ (wFabric.vl 1 2).rx
    ∧ ((wFabric.vl 1 2).rx - (wPacket 6 0 5).seq).toNat < 2 ^ 31
    ∧ (wPacket 6 0 7).seq ≠ (wFabric.vl 1 2).rx ∧ ¬((wFabric.vl 1 2).rx - (wPacket 6 0 7).seq).toNat < 2 ^ 31
    ∧ ({ wPacket 6 0 6 with ok := false } : Packet).passes = false
    ∧ (wPacket 6 0 6).seq = (wFabric.vl 1 2).rx ∧ (wPacket 6 0 6).passes = true ∧ wFabric.jobHeld 0 = true
    ∧ (wPacket 9 0 6).passes = true ∧ wFabric.jobHeld 1 = false
    ∧ (∃ k ∈ (wFabric.vl 1 2).unacked, ((3 : BitVec 32) - k.seq).toNat < 2 ^ 31)
    ∧ (∃ k ∈ (wFabric.vl 1 2).unacked, k.seq = 4) ∧ (wFabric.vl 1 2).unacked ≠ []
    ∧ (wFabric.port 1).limit ≤ (wFabric.vl 1 2).counted + 1 ∧ (wFabric.vl 1 2).counted + 0 < (wFabric.port 1).limit := by
  decide +kernel

theorem meets_FabricAndGangs_rest :
    (let p : Spair := ⟨9, 0, 5, 0, 2, [(8, 1, 1), (8, 2, 3)], 0, false, false⟩
     (wFabric.merge.findIdx? fun e => e.matches p && (e.add p).isSome) = some 0)
    ∧ (let p : Spair := ⟨9, 0, 6, 0, 2, [(8, 1, 1)], 0, false, false⟩
       (wFabric.merge.findIdx? fun e => e.matches p && (e.add p).isSome) = none)
    ∧ (∀ b : Bool, ({ (⟨9, 0, 6, 0, 2, [(8, 1, 1)], 0, false, false⟩ : Spair) with overflow := b }).overflow = b)
    ∧ (∀ e ∈ wFabric.merge, e.dst ≠ wFabric.pkg)
    ∧ (wFabric.gang 3).slices = ⟨8, 100, 10⟩ :: [] ∧ (wFabric.gang 3).cur = some ⟨7, 100, 10⟩
    ∧ (wFabric.gang 3).sentReady = true ∧ (wFabric.gang 3).aborting = false ∧ wFabric.blocks = [] ∧ wFabric.gangDue 3 = false
    ∧ (wFabric.setGang 3 { wFabric.gang 3 with due := true }).gangDue 3 = true
    ∧ (let s : State := { wFabric with blocks := [(0, { groups := [] })] }
       ∃ y ∈ s.blocks, y.2.st = .resident ∧ ((s.ctx (s.ctxOfBlock y.1)).word 34).getLsbD 63 = true) := by
  decide +kernel

/-- Every way to package 9 is lost, and an operation waits on pairs for it. -/
def wCutOff : State :=
  { wFabric with
    ports := (match Config.routes 9 with | [] => [0] | is => is).map fun j => (j, { lost := [9] })
    ops := [(0, { grp := 0, block := 0, core := 0, chan := some 0, kind := .spred false 0x0024000000000000 0 0, st := .started,
                  pairs := [0] })] }

theorem lost_everywhere (is : List Nat) (j : Nat) (h : j ∈ is) :
    9 ∈ (Tab.get ({} : Port) (is.map fun j => (j, ({ lost := [9] } : Port))) j).lost := by
  unfold Tab.get
  induction is with
  | nil => cases h
  | cons a t ih =>
    by_cases e : a = j
    · subst e; simp [Tab.find?]
    · have : j ∈ t := by simpa [Ne.symm e] using h
      simpa [Tab.find?, e] using ih this

theorem meets_FabricAndGangs_lost :
    (∀ j ∈ (match Config.routes 9 with | [] => [0] | is => is), 9 ∈ (wCutOff.port j).lost)
    ∧ (wCutOff.op 0).kind.fabric = some 9 ∧ (wCutOff.op 0).pairs ≠ [] :=
  ⟨fun j h => lost_everywhere _ j h, by decide +kernel, by decide +kernel⟩

theorem meets_FabricAndGangs_room : (wFabric.mergeTable 9).length < 65536 :=
  Nat.lt_of_le_of_lt (List.length_filter_le ..) (by decide +kernel)

/-- A table of `n` entries of another key takes no other pair; a full one has no room. -/
theorem meets_FabricAndGangs_full (n : Nat) (hn : 65536 ≤ n) (e : MergeEnt) (p : Spair) (h : e.matches p = false)
    (hd : e.dst = p.dst) :
    (List.replicate n e).findIdx? (fun e => e.matches p && (e.add p).isSome) = none
    ∧ ¬(({ wFabric with merge := List.replicate n e } : State).mergeTable p.dst).length < 65536 := by
  constructor
  · rw [List.findIdx?_eq_none_iff]
    intro x hx
    rw [List.eq_of_mem_replicate hx, h]
    rfl
  · simpa [State.mergeTable, hd] using hn

/-! ### Hypotheses met: what the last statement names -/

theorem meets_BranchEndAndChannelsComplete :
    wIndexed.Outside ∧ wIndexed.th.act Guard.always ≠ 0
    ∧ (∀ l, l < 32 → (wIndexed.th.act Guard.always).getLsbD l = true → (wIndexed.th.regs.vec 4 l).toNat % 8 = 0
        ∧ (wIndexed.kernelOf wIndexed.grp).inBody wIndexed.th.body ((wIndexed.th.regs.vec 4 l).toNat / 8) = true)
    ∧ (wState.th.endLanes (wState.th.act ⟨1, false⟩)).spent = false ∧ wState.opsOf wState.cur = []
    ∧ (wState.withOp .finished).Outside ∧ (wState.withOp .finished).cur = 0
    ∧ (∀ o ∈ (wState.withOp .finished).opsOf 0, o.2.st = .finished ∧ ((wState.withOp .finished).op o.1).fault = none)
    ∧ ((wState.withOp .finished).chan 0 0).queue = [] ∧ (wState.withOp .finished).chanOps 0 0 = [0]
    ∧ ((wState.withOp .finished).op 0).fault = none ∧ (wState.withOp .finished).chcfgFault .own 128 256 = none
    ∧ (wReleasing.core 0).rels = 0 :: [] ∧ (wReleasing.rels.find? 0).isSome = true
    ∧ wState.grp.region.depth = 0 ∧ wState.grp.region.depth ≠ 1
    ∧ (let s := wLow (wTrying 1 false 0) 0x0F
       let x := (s.flush s.cur).grp
       x.conflictDue = false ∧ x.preemptDue = false ∧ s.th.act Guard.always &&& s.grp.rm ≠ 0 ∧ s.grp.region.mode = false)
    ∧ ((wTrying 1 false 2).group 0).atBoundary = true ∧ ((wTrying 1 false 2).group 0).conflictDue = true := by
  unfold State.Outside
  decide +kernel

/-! ### Results that the spec's tables give -/

/-- What lane 0 of v4 holds after an instruction on v1, v2 and v3, where lane 0 holds a, b and c. -/
def laneAfter (i : Instr) (a b c : Word) : Word :=
  let s := wState.setTh { wState.th with exec := 1, regs := { v := [(32, a), (64, b), (96, c)] } }
  match exec i s with
  | .next t => t.th.regs.vec 4 0
  | _ => 0xDEAD

/-- An entry on v1, v2 and v3 that writes v4. -/
def tOp (ty : Ty) (sat : Bool) : Alu := { wOp ty with d := 4, a := 1, b := .reg 2, sat := sat }

/-- Boundary results of the table after R78. -/
theorem test_integer_boundary_results :
    [laneAfter (.iadd (tOp .i32 false)) 0x7FFFFFFF 1 0, laneAfter (.iadd (tOp .i32 true)) 0x7FFFFFFF 1 0,
     laneAfter (.isub (tOp .n32 true)) 3 5 0, laneAfter (.imulhi (tOp .n32 false)) 0xFFFFFFFF 0xFFFFFFFF 0,
     laneAfter (.imulhi (tOp .i32 false)) 0xFFFFFFFF 0xFFFFFFFF 0, laneAfter (.iabs (tOp .i32 false)) 0x80000000 0 0,
     laneAfter (.iabs (tOp .i32 true)) 0x80000000 0 0, laneAfter (.shl (tOp .b32 false)) 1 32 0,
     laneAfter (.sar (tOp .i32 false)) 0x80000000 40 0, laneAfter (.rot (tOp .b32 false)) 0x80000001 33 0,
     laneAfter (.clz (tOp .b32 false)) 0 0 0, laneAfter (.bfe (tOp .i32 false)) 0x0F00 0x0408 0,
     laneAfter (.bfe (tOp .n32 false)) 0x80000000 0x081C 0,
     laneAfter (.bfi { tOp .b32 false with c := .reg 3 }) 0xAB 0x081C 0]
    = [0x80000000, 0x7FFFFFFF, 0, 0xFFFFFFFE, 0, 0x80000000, 0x7FFFFFFF, 0, 0xFFFFFFFF, 3, 32, 0xFFFFFFFF, 8, 0xB0000000] := by
  decide +kernel

/-- The dot product after R76: an exact sum that wraps or saturates once. -/
theorem test_dp4_wraps_once :
    [laneAfter (.dp4 { tOp .i8 false with c := .reg 3 }) 0x80808080 0x80808080 0x7FFF0000,
     laneAfter (.dp4 { tOp .i8 true with c := .reg 3 }) 0x80808080 0x80808080 0x7FFF0000] = [0x80000000, 0x7FFFFFFF] := by
  decide +kernel

/-- The packed addition after R117. -/
theorem test_add2_saturates :
    [laneAfter (.add2 (tOp .i16x2 true)) 0x7FF08000 0x0020FFFF 0, laneAfter (.add2 (tOp .i16x2 false)) 0x7FF08000 0x0020FFFF 0]
    = [0x7FFF8000, 0x80107FFF] := by
  decide +kernel

/-- The CVT examples after R97: rounding mode, SAT, destination code, source and result. -/
theorem test_cvt_examples :
    ([(.rn, false, 2, 0x40200000, 0x2), (.rn, false, 2, 0xC0200000, 0xFFFFFFFE), (.rd, false, 2, 0xC0200000, 0xFFFFFFFD),
      (.rn, false, 2, 0x4F32D05E, 0x80000000), (.rn, true, 2, 0x4F32D05E, 0x7FFFFFFF), (.rn, true, 2, 0x7FC00000, 0x0),
      (.rn, false, 6, 0xBECCCCCD, 0x0), (.rn, false, 6, 0xBFC00000, 0xFFFFFFFF), (.rn, false, 12, 0x3F808000, 0x3F80),
      (.ru, false, 12, 0x3F808000, 0x3F81), (.rn, false, 13, 0x3E99999A, 0x2A), (.rz, false, 13, 0x3E99999A, 0x29),
      (.rn, false, 13, 0x3A83126F, 0x1), (.rn, false, 13, 0x43E60000, 0x7E), (.rn, false, 13, 0x43EB0000, 0x7F),
      (.rn, true, 13, 0x43EB0000, 0x7E), (.rn, true, 13, 0x7F800000, 0x7E), (.rn, false, 14, 0x447A0000, 0x64)] : List (Round × Bool × BitVec 5 × Word × Word)).all
      (fun (rm, sat, d, x, y) => laneAfter (.cvt { tOp .f32 sat with rm := rm, sub := d }) x 0 0 == y) = true := by
  decide +kernel

/-- The scan and the reduction after R116: 1.0, 2^24, 1.0 and -2^24 in lanes 0 to 3. -/
theorem test_scan_is_sequential_and_reduction_a_tree :
    (let s := wState.setTh { wState.th with
       exec := 15, regs := { v := [(32, 0x3F800000), (33, 0x4B800000), (34, 0x3F800000), (35, 0xCB800000)] } }
     let f : Alu := { tOp .f32 false with b := .reg 0 }
     match exec (.gscan f) s, exec (.gred f) s with
     | .next t, .next u =>
       (List.range 4).map (t.th.regs.vec 4) == [0x3F800000, 0x4B800000, 0x4B800000, 0] && u.th.regs.scal 4 == 0x3F800000
     | _, _ => false) = true := by
  decide +kernel

/-- The 128-bit addition after R75: the carry of the low words goes to p1. -/
theorem test_carry_chain :
    (let s := wState.setTh { wState.th with regs := { s := [(2, 0xFFFFFFFFFFFFFFF0), (4, 0x20), (3, 1), (5, 2)] } }
     let f : Alu := { wOp .n64 with u := true, d := 10, a := 2, b := .reg 4, c := .reg 0, sub := 1 }
     match exec (.iaddc f) s with
     | .next t =>
       t.th.regs.scal 10 == 0x10 && t.th.regs.pred 1 == 0xFFFFFFFF
         && (match exec (.iaddc { f with d := 11, a := 3, b := .reg 5, c := .reg 1, sub := 15 }) t with
           | .next u => u.th.regs.scal 11 == 4
           | _ => false)
     | _ => false) = true := by
  decide +kernel

end Sys2Proof.Tests
end

section
/-! PROOF. Integer and address instructions: what the shared helpers compute, read as operations on bit vectors, and the
statements O8, O10, O13 and O14 (R63 to R68, R71, R75 to R77). -/

namespace Sys2Proof

theorem Ty.width_pos (t : Ty) : 0 < t.width := by cases t <;> decide

end Sys2Proof

namespace Sys2Proof.Machine

/-! ### Readings of bits -/

/-- The low bits of a number, as a bit vector. -/
theorem lowBits_eq_toNat (x w : Nat) : lowBits x w = (BitVec.ofNat w x).toNat :=
  (BitVec.toNat_ofNat x w).symm

/-- The two's-complement reading of the helpers is that of bit vectors. -/
theorem sext_eq_toInt (x : Nat) {w : Nat} (hw : 0 < w) : sext x w = (BitVec.ofNat w x).toInt := by
  have hpow : 2 ^ w = 2 * 2 ^ (w - 1) := by rw [← Nat.pow_succ', Nat.succ_eq_add_one, Nat.sub_add_cancel hw]
  have hcond : x % 2 ^ w < 2 ^ (w - 1) ↔ 2 * (x % 2 ^ w) < 2 ^ w := by omega
  simp only [sext, BitVec.toInt_eq_toNat_cond, BitVec.toNat_ofNat, hcond]

/-- An integer modulo 2^w, as a bit vector. -/
theorem wrap_eq_toNat (x : Int) (w : Nat) : wrap x w = (BitVec.ofInt w x).toNat := (BitVec.toNat_ofInt x).symm

theorem lowBits_wrap (x : Int) (w : Nat) : lowBits (wrap x w) w = wrap x w := by
  rw [wrap_eq_toNat, lowBits, Nat.mod_eq_of_lt (BitVec.isLt _)]

/-- A register operand fits its width. -/
theorem Env.reg_lt (e : Env) (i : Nat) (u : Bool) (w l : Nat) : e.reg i u w l < 2 ^ w := by
  have hlow (x : Nat) : lowBits x w < 2 ^ w := Nat.mod_lt _ (Nat.two_pow_pos w)
  unfold Env.reg
  split
  · exact hlow _
  · split
    · next h64 => subst h64; exact BitVec.isLt _
    · exact hlow _

/-- Operand A fits its width. -/
theorem Env.a_lt (e : Env) (f : Alu) (w l : Nat) : e.a f w l < 2 ^ w := e.reg_lt ..

/-! ### Logic (R65) -/

theorem lowBits_and (a b w : Nat) : lowBits (a &&& b) w = (BitVec.ofNat w a &&& BitVec.ofNat w b).toNat := by
  rw [lowBits_eq_toNat, BitVec.ofNat_and]

theorem lowBits_or (a b w : Nat) : lowBits (a ||| b) w = (BitVec.ofNat w a ||| BitVec.ofNat w b).toNat := by
  rw [lowBits_eq_toNat, BitVec.ofNat_or]

theorem lowBits_xor (a b w : Nat) : lowBits (a ^^^ b) w = (BitVec.ofNat w a ^^^ BitVec.ofNat w b).toNat := by
  rw [lowBits_eq_toNat, BitVec.ofNat_xor]

/-- Clearing in A the bits that A and B share is A AND (NOT B). -/
theorem lowBits_andn (a b w : Nat) :
    lowBits (a ^^^ (a &&& b)) w = (BitVec.ofNat w a &&& ~~~BitVec.ofNat w b).toNat := by
  rw [lowBits_eq_toNat, BitVec.ofNat_xor, BitVec.ofNat_and]
  congr 1
  ext i hi
  simp only [BitVec.getElem_xor, BitVec.getElem_and, BitVec.getElem_not]
  cases (BitVec.ofNat w a)[i] <;> simp

/-! ### Shifts and rotation (R66) -/

theorem lowBits_shl (a n w : Nat) :
    lowBits (if w ≤ n then 0 else a * 2 ^ n) w = (BitVec.ofNat w a <<< n).toNat := by
  rw [BitVec.toNat_shiftLeft, BitVec.toNat_ofNat, Nat.shiftLeft_eq, lowBits]
  split
  · next h =>
    rw [Nat.zero_mod, Nat.mod_eq_zero_of_dvd (Nat.dvd_mul_left_of_dvd (Nat.pow_dvd_pow 2 h) _)]
  · rw [Nat.mod_mul_mod]

theorem lowBits_shr {a w : Nat} (n : Nat) (ha : a < 2 ^ w) :
    lowBits (if w ≤ n then 0 else a / 2 ^ n) w = (BitVec.ofNat w a >>> n).toNat := by
  rw [BitVec.toNat_ushiftRight, BitVec.toNat_ofNat, Nat.mod_eq_of_lt ha, Nat.shiftRight_eq_div_pow, lowBits]
  split
  · next h =>
    rw [Nat.zero_mod, Nat.div_eq_of_lt (Nat.lt_of_lt_of_le ha (Nat.pow_le_pow_right Nat.two_pos h))]
  · rw [Nat.mod_eq_of_lt (Nat.lt_of_le_of_lt (Nat.div_le_self ..) ha)]

/-- A shift of a `w`-bit integer by `w` or more leaves copies of its sign, as a shift by `w` does. -/
theorem ediv_two_pow_min {x : Int} {w : Nat} (n : Nat) (hlo : -(2 ^ w : Nat) ≤ x) (hhi : x < (2 ^ w : Nat)) :
    x / (2 ^ min n w : Nat) = x / (2 ^ n : Nat) := by
  rcases Nat.le_total n w with h | h
  · rw [Nat.min_eq_left h]
  · have hpow : 2 ^ w ≤ 2 ^ n := Nat.pow_le_pow_right Nat.two_pos h
    rw [Nat.min_eq_right h]
    rcases Int.lt_or_le x 0 with hx | hx
    · rw [Int.ediv_eq_neg_one_of_neg_of_le hx (by omega), Int.ediv_eq_neg_one_of_neg_of_le hx (by omega)]
    · rw [Int.ediv_eq_zero_of_lt hx hhi, Int.ediv_eq_zero_of_lt hx (by omega)]

/-- A bit vector read as a signed number lies within its width. -/
theorem toInt_within {w : Nat} (x : BitVec w) : -(2 ^ w : Nat) ≤ x.toInt ∧ x.toInt < (2 ^ w : Nat) := by
  have hlt := x.isLt
  rw [BitVec.toInt_eq_toNat_cond]
  split <;> omega

theorem lowBits_sar (a n : Nat) {w : Nat} (hw : 0 < w) :
    lowBits (wrap (sext a w / (2 ^ min n w : Nat)) w) w = ((BitVec.ofNat w a).sshiftRight n).toNat := by
  obtain ⟨hlo, hhi⟩ := toInt_within (BitVec.ofNat w a)
  rw [lowBits_wrap, sext_eq_toInt a hw, ediv_two_pow_min n hlo hhi, wrap_eq_toNat, BitVec.sshiftRight,
    Int.shiftRight_eq_div_pow]

/-- The bits that a rotation by `k` shifts out come back below the others, so their sum is their OR. -/
theorem lowBits_rotate {a k w : Nat} (ha : a < 2 ^ w) (hk : k < w) :
    lowBits (a * 2 ^ k + a / 2 ^ (w - k)) w = ((BitVec.ofNat w a).rotateLeft k).toNat := by
  have hw : 2 ^ w = 2 ^ (w - k) * 2 ^ k := by rw [← Nat.pow_add, Nat.sub_add_cancel (Nat.le_of_lt hk)]
  have hback : a / 2 ^ (w - k) < 2 ^ k := Nat.div_lt_of_lt_mul (hw ▸ ha)
  have hkept : a * 2 ^ k % 2 ^ w = 2 ^ k * (a % 2 ^ (w - k)) := by
    rw [hw, Nat.mul_mod_mul_right, Nat.mul_comm]
  have hfit : 2 ^ k * (a % 2 ^ (w - k)) + a / 2 ^ (w - k) < 2 ^ w := by
    have hm : a % 2 ^ (w - k) + 1 ≤ 2 ^ (w - k) := Nat.mod_lt _ (Nat.two_pow_pos _)
    calc 2 ^ k * (a % 2 ^ (w - k)) + a / 2 ^ (w - k)
        < 2 ^ k * (a % 2 ^ (w - k) + 1) := by rw [Nat.mul_add_one]; exact Nat.add_lt_add_left hback _
      _ ≤ 2 ^ k * 2 ^ (w - k) := Nat.mul_le_mul_left _ hm
      _ = 2 ^ w := by rw [hw, Nat.mul_comm]
  rw [BitVec.toNat_rotateLeft, BitVec.toNat_ofNat, Nat.mod_eq_of_lt ha, Nat.mod_eq_of_lt hk, Nat.shiftLeft_eq,
    Nat.shiftRight_eq_div_pow, hkept, ← Nat.two_pow_add_eq_or_of_lt hback, lowBits, Nat.add_mod, hkept,
    Nat.mod_eq_of_lt (Nat.lt_trans hback (Nat.pow_lt_pow_right Nat.one_lt_two hk)), Nat.mod_eq_of_lt hfit]

/-! ### Counting bits (R67) -/

theorem popCount_eq_countP (x w : Nat) : popCount x w = (List.range w).countP fun i => x.testBit i :=
  List.countP_eq_length_filter.symm

/-! ### Dot product and sum of differences (R76, R77) -/

/-- A sum over the four bytes, taken one by one onto a first value. -/
theorem foldl_range_four {α : Type} [Add α] (x : α) (g : Nat → α) :
    (List.range 4).foldl (fun y k => y + g k) x = x + g 0 + g 1 + g 2 + g 3 := rfl

/-! ### Entries -/

/-- Results that agree on every operand give the same effect. -/
theorem State.performAlu_congr (s : State) {f : Alu} {w : Nat} {g h : Env → Nat → Nat} (hgh : ∀ e l, g e l = h e l) :
    s.performAlu f w g = s.performAlu f w h :=
  congrArg (s.performAlu f w) (funext fun e => funext (hgh e))

/-- An entry of R65 completes with the bits of its result. -/
theorem State.bits2_done {i : Instr} {f : Alu} {s : State} {g : Nat → Nat → Nat} {h : Env → Nat → Nat}
    (hi : exec i s = s.bits2 f g)
    (hg : ∀ e l, lowBits (g (e.a f f.ty.width l) (e.b f f.ty.width l)) f.ty.width = h e l) :
    AluDone i f f.ty.width s h := by
  refine State.performAlu_done (hi.trans ?_)
  rw [State.bits2]
  exact s.performAlu_congr hg

/-- An entry of R66 completes with its result. -/
theorem State.shift2_done {i : Instr} {f : Alu} {s : State} {g : Nat → Nat → Nat} {h : Env → Nat → Nat}
    (hi : exec i s = s.shift2 f g)
    (hg : ∀ e l, lowBits (g (e.a f f.ty.width l) (e.b32 f l)) f.ty.width = h e l) :
    AluDone i f f.ty.width s fun e l => fill f.ty (h e l) := by
  refine State.performAlu_done (hi.trans ?_)
  rw [State.shift2]
  exact s.performAlu_congr fun e l => by rw [hg e l]

/-- An entry of R63 or R64 completes with `finish` of its exact result. -/
theorem State.arith2_done {i : Instr} {f : Alu} {s : State} {g : Int → Int → Int} (hi : exec i s = s.arith2 f g) :
    AluDone i f f.ty.width s fun e l =>
      fill f.ty (finish f.sat f.ty (g (tyVal f.ty (e.a f f.ty.width l)) (tyVal f.ty (e.b f f.ty.width l)))) :=
  State.performAlu_done hi

/-- Settles O8: each entry is performed with the function of its operands that R63 or R64 names. -/
theorem integerArithmetic : Obligations.IntegerArithmetic := by
  intro f s
  refine ⟨?iadd, ?isub, ?imul, ?imad, ?imulhi, ?imin, ?imax, ?iabs⟩
  case iadd => exact State.arith2_done (g := fun a b => a + b) rfl
  case isub => exact State.arith2_done (g := fun a b => a - b) rfl
  case imul => exact State.arith2_done (g := fun a b => a * b) rfl
  case imad => exact State.performAlu_done rfl
  case imulhi =>
    exact State.arith2_done (g := fun a b => (wrap (a * b) (2 * f.ty.width) / 2 ^ f.ty.width : Nat)) rfl
  case imin => exact State.arith2_done (g := min) rfl
  case imax => exact State.arith2_done (g := max) rfl
  case iabs => exact State.performAlu_done rfl

/-- Settles O10: the logic entries and the shifts are the operations of bit vectors, and the other entries are performed
with the function that their rule names. -/
theorem logicShiftsAndFields : Obligations.LogicShiftsAndFields := by
  refine ⟨fun f s => ?_, fun f s => ?_⟩
  · have hw := f.ty.width_pos
    refine ⟨?and, ?or, ?xor, ?andn, ?shl, ?shr, ?sar, ?rot⟩
    case and => exact State.bits2_done (g := fun a b => a &&& b) rfl fun e l => lowBits_and ..
    case or => exact State.bits2_done (g := fun a b => a ||| b) rfl fun e l => lowBits_or ..
    case xor => exact State.bits2_done (g := fun a b => a ^^^ b) rfl fun e l => lowBits_xor ..
    case andn => exact State.bits2_done (g := fun a b => a ^^^ (a &&& b)) rfl fun e l => lowBits_andn ..
    case shl =>
      exact State.shift2_done (g := fun a n => if f.ty.width ≤ n then 0 else a * 2 ^ n) rfl
        fun e l => lowBits_shl ..
    case shr =>
      exact State.shift2_done (g := fun a n => if f.ty.width ≤ n then 0 else a / 2 ^ n) rfl
        fun e l => lowBits_shr _ (e.a_lt ..)
    case sar =>
      exact State.shift2_done (g := fun a n => wrap (sext a f.ty.width / (2 ^ min n f.ty.width : Nat)) f.ty.width) rfl
        fun e l => lowBits_sar _ _ hw
    case rot =>
      exact State.shift2_done (g := fun a n => a * 2 ^ (n % f.ty.width) + a / 2 ^ (f.ty.width - n % f.ty.width)) rfl
        fun e l => lowBits_rotate (e.a_lt ..) (Nat.mod_lt _ hw)
  · refine ⟨?popc, ?clz, ?brev, ?bfe, ?bfi, ?dp4, ?isad⟩
    case popc =>
      refine State.performAlu_done (Eq.trans (b := execPopc f s) rfl ?_)
      exact s.performAlu_congr fun e l => popCount_eq_countP ..
    case clz => exact State.performAlu_done rfl
    case brev => exact State.performAlu_done rfl
    case bfe => exact State.performAlu_done rfl
    case bfi => exact State.performAlu_done rfl
    case dp4 =>
      refine State.performAlu_done (Eq.trans (b := execDp4 f s) rfl ?_)
      rw [execDp4]
      exact s.performAlu_congr fun e l => by rw [foldl_range_four]; rfl
    case isad =>
      refine State.performAlu_done (Eq.trans (b := execIsad f s) rfl ?_)
      rw [execIsad]
      refine s.performAlu_congr fun e l => ?_
      simp only [foldl_range_four, Nat.zero_add, Int.natCast_add, beq_iff_eq]

/-- A predicate in a lane as the number that R71 and R75 add. -/
theorem State.toNat_ptest (s : State) (i : Idx) (l : Nat) :
    (s.env.ptest i l).toNat = if (s.th.regs.pred i.toNat).getLsbD l then 1 else 0 := by
  change ((s.th.regs.pred i.toNat).getLsbD l).toNat = _
  cases (s.th.regs.pred i.toNat).getLsbD l <;> rfl

/-- Settles O13: PSET completes with a predicate write, of the table's bits, in its active lanes. -/
theorem predicateTable : Obligations.PredicateTable := by
  intro f s
  simp only [← s.toNat_ptest]
  refine ⟨?regs, ?next, ?wrote⟩
  case next =>
    change execPset f s = _
    rw [execPset]
    exact State.performRegs_next ..
  case wrote =>
    by_cases hact : s.th.act f.guard = 0
    · rw [if_pos hact, if_pos hact]
    · rw [if_neg hact, if_neg hact]
      exact Regs.setPred_wrote ..

/-- Settles O14: IADDC writes the sum first, to a scalar or in the active lanes, and then the carry-out. -/
theorem carryChain : Obligations.CarryChain := by
  intro f s hact
  simp only [← s.toNat_ptest]
  refine ⟨?sums, ?regs, ?next, ?sum, ?carry⟩
  case next =>
    change execIaddc f s = _
    rw [execIaddc]
    exact (State.performRegs_next ..).trans (by rw [if_neg hact])
  case carry => exact Regs.setPred_wrote ..
  case sum =>
    by_cases hu : f.u = true
    · simp only [hu, if_true]
      exact Regs.setScal_wrote ..
    · simp only [hu]
      exact Regs.putLanes_wrote ..

end Sys2Proof.Machine
end

section
/-! PROOF. Instructions that act on packed elements and across the lanes of a group: what the two halves of a word and the masks
of the active lanes hold, and the statements O19 and O21 (R112, R113, R117). -/

namespace Sys2Proof.Machine

/-! ### Packed elements (R117) -/

theorem halfOf_eq (x k : Nat) : halfOf x k = x / 65536 ^ k % 65536 := by
  rw [halfOf, Nat.pow_mul]

theorem halfOf_lt (x k : Nat) : halfOf x k < 2 ^ 16 := Nat.mod_lt _ (Nat.two_pow_pos 16)

/-- Packed results that agree on every element give the same effect. -/
theorem State.packed2_congr (s : State) {f : Alu} {g h : Nat → Nat → Nat} (hgh : ∀ a b, a < 2 ^ 16 → g a b = h a b) :
    s.packed2 f g = s.packed2 f h := by
  refine s.performAlu_congr fun e l => ?_
  simp only [pairOf, hgh _ _ (halfOf_lt ..)]

/-- A packed entry completes with the pair of its elements' results. -/
theorem State.packed2_done {i : Instr} {f : Alu} {s : State} (g : Nat → Nat → Nat) (hi : exec i s = s.packed2 f g) :
    AluDone i f 32 s fun e l =>
      g (e.a f 32 l / 65536 ^ 1 % 65536) (e.b f 32 l / 65536 ^ 1 % 65536) * 65536
        + g (e.a f 32 l / 65536 ^ 0 % 65536) (e.b f 32 l / 65536 ^ 0 % 65536) := by
  refine State.performAlu_done (hi.trans (s.performAlu_congr fun e l => ?_))
  simp only [← halfOf_eq]
  rfl

/-- A shift to the left whose count is not reduced. -/
theorem shl_elem (a n w : Nat) : (if w ≤ n then 0 else lowBits (a * 2 ^ n) w) = (BitVec.ofNat w a <<< n).toNat := by
  rw [← lowBits_shl, apply_ite (lowBits · w)]
  congr 1

/-- A shift to the right of an element of a signed type copies bit 15. -/
theorem sar_elem (a n : Nat) :
    wrap (tyVal .i16 a / (2 ^ min n 16 : Nat)) 16 = ((BitVec.ofNat 16 a).sshiftRight n).toNat := by
  rw [← lowBits_sar a n (w := 16) (by decide), lowBits_wrap]
  rfl

/-- A shift to the right of an element of an unsigned type brings in zeros. -/
theorem shr_elem {a : Nat} (n : Nat) (ha : a < 2 ^ 16) :
    wrap (tyVal .n16 a / (2 ^ min n 16 : Nat)) 16 = (BitVec.ofNat 16 a >>> n).toNat := by
  have hval : tyVal .n16 a = (a : Int) := congrArg Nat.cast (Nat.mod_eq_of_lt ha)
  have hshift : (a : Int) / (2 ^ min n 16 : Nat) = ((a / 2 ^ n : Nat) : Int) := by
    rw [ediv_two_pow_min n (by omega) (by exact_mod_cast ha), Int.natCast_ediv]
  rw [hval, hshift, wrap_eq_toNat, BitVec.ofInt_natCast, BitVec.toNat_ushiftRight, BitVec.toNat_ofNat, BitVec.toNat_ofNat,
    Nat.mod_eq_of_lt ha, Nat.shiftRight_eq_div_pow, Nat.mod_eq_of_lt (Nat.lt_of_le_of_lt (Nat.div_le_self ..) ha)]

/-- Settles O19: each packed entry is performed with the function of its elements that R117 names. -/
theorem packedIntegers : Obligations.PackedIntegers := by
  intro f s t el both
  refine ⟨?add2, ?sub2, ?max2, ?min2, ?cmp2, ?shl2, ?shr2, ?sel2⟩
  case add2 => exact State.packed2_done (fun a b => finish f.sat t (tyVal t a + tyVal t b)) rfl
  case sub2 => exact State.packed2_done (fun a b => finish f.sat t (tyVal t a - tyVal t b)) rfl
  case max2 => exact State.packed2_done (fun a b => if tyVal t a ≤ tyVal t b then b else a) rfl
  case min2 => exact State.packed2_done (fun a b => if tyVal t a ≤ tyVal t b then a else b) rfl
  case cmp2 =>
    exact State.packed2_done
      (fun a b => if condHolds f.sub.toNat (relInt (tyVal t a) (tyVal t b)) then 0xFFFF else 0) rfl
  case shl2 =>
    refine State.packed2_done (fun a n => (BitVec.ofNat 16 a <<< n).toNat) (Eq.trans (b := execShl2 f s) rfl ?_)
    exact s.packed2_congr fun a n _ => shl_elem a n 16
  case shr2 =>
    refine State.packed2_done
      (fun a n => if f.ty.signed then ((BitVec.ofNat 16 a).sshiftRight n).toNat else (BitVec.ofNat 16 a >>> n).toNat)
      (Eq.trans (b := execShr2 f s) rfl ?_)
    rw [execShr2]
    refine s.packed2_congr fun a n ha => ?_
    rw [elemTy]
    split
    · exact sar_elem a n
    · exact shr_elem n ha
  case sel2 =>
    refine State.performAlu_done (Eq.trans (b := execSel2 f s) rfl ?_)
    refine s.performAlu_congr fun e l => ?_
    simp only [pairOf, halfOf_eq]
    rfl

/-! ### Masks of lanes -/

theorem mask_eq_zero_iff {m : Mask} : m = 0 ↔ ∀ l, l < 32 → m.getLsbD l = false := by
  refine ⟨fun h l _ => by rw [h]; exact BitVec.getLsbD_zero, fun h => BitVec.eq_of_getLsbD_eq fun l hl => ?_⟩
  rw [h l hl]
  exact BitVec.getLsbD_zero.symm

/-- A mask that is not zero has its lowest lane. -/
theorem lowestLane_mem {m : Mask} (hm : m ≠ 0) : lowestLane m ∈ lanesOf m := by
  have hne : lanesOf m ≠ [] := fun hnil => hm <| mask_eq_zero_iff.2 fun l hl => by
    simpa [hl] using mt mem_lanesOf.2 (hnil ▸ List.not_mem_nil : l ∉ lanesOf m)
  rw [lowestLane, List.headD_eq_head?_getD, List.head?_eq_some_head hne]
  exact List.head_mem hne

/-- Some lane is in both masks. -/
theorem and_ne_zero_iff {m p : Mask} :
    (m &&& p != 0) = true ↔ ∃ l, l < 32 ∧ m.getLsbD l = true ∧ p.getLsbD l = true := by
  rw [bne_iff_ne, ne_eq, mask_eq_zero_iff]
  simp

/-- Every lane of the first mask is in the second. -/
theorem and_not_eq_zero_iff {m p : Mask} :
    (m &&& ~~~p == 0) = true ↔ ∀ l, l < 32 → m.getLsbD l = true → p.getLsbD l = true := by
  rw [beq_iff_eq, mask_eq_zero_iff]
  refine forall₂_congr fun l hl => ?_
  simp [hl]

/-- The lanes of a mask agree with its lowest lane when they agree with one another. -/
theorem all_eq_lowestLane_iff {α : Type} [BEq α] [LawfulBEq α] {m : Mask} (hm : m ≠ 0) (v : Nat → α) :
    ((lanesOf m).all fun l => v l == v (lowestLane m)) = true ↔
      ∀ l k, l < 32 → k < 32 → m.getLsbD l = true → m.getLsbD k = true → v l = v k := by
  simp only [List.all_eq_true, beq_iff_eq]
  constructor
  · intro h l k hl hk hml hmk
    exact (h l (mem_lanesOf.2 ⟨hl, hml⟩)).trans (h k (mem_lanesOf.2 ⟨hk, hmk⟩)).symm
  · intro h l hl
    obtain ⟨hlt, hml⟩ := mem_lanesOf.1 hl
    obtain ⟨hlow, hmlow⟩ := mem_lanesOf.1 (lowestLane_mem hm)
    exact h l _ hlt hlow hml hmlow

/-- The ballot of two masks has the lanes that are in both. -/
theorem getLsbD_ballot {m p : Mask} {l : Nat} (hl : l < 64) :
    ((m &&& p).setWidth 64).getLsbD l = true ↔ l < 32 ∧ m.getLsbD l = true ∧ p.getLsbD l = true := by
  rw [BitVec.getLsbD_setWidth, BitVec.getLsbD_and]
  simp only [hl, decide_true, Bool.true_and, Bool.and_eq_true]
  exact ⟨fun h => ⟨BitVec.lt_of_getLsbD h.1, h⟩, And.right⟩

theorem maskOf_const (b : Bool) : maskOf (fun _ => b) = if b then 0xFFFFFFFF else 0 := by
  cases b <;> decide

/-! ### Votes and matches (R112, R113) -/

/-- A predicate of one value, written in the lanes of a mask. -/
theorem Regs.setPred_const_wrote (r : Regs) (d : Nat) (act : Mask) (b : Bool) :
    WrotePred r (r.setPred d act (if b then 0xFFFFFFFF else 0)) d act fun _ => b := by
  rw [← maskOf_const]
  exact Regs.setPred_wrote ..

/-- An instruction that only changes registers completes with them where a lane is active. -/
theorem State.performRegs_active {s : State} {g : Guard} (n : Nat) (k : Mask → Thread → Regs) (hact : s.th.act g ≠ 0) :
    s.performRegs g n k = .next (s.went n (k (s.th.act g) s.th)) := by
  rw [State.performRegs_next, if_neg hact]

/-- The value that MATCH writes for the mask of a lane's matches: in `.all` mode 0, unless they are every active lane. -/
theorem matched_toNat (mode : BitVec 5) (m act : Mask) :
    (if mode = 0 then m else if m == act then m else 0).toNat = if mode = 0 ∨ m = act then m.toNat else 0 := by
  by_cases hmode : mode = 0
  · rw [if_pos hmode, if_pos (.inl hmode)]
  · simp only [hmode, if_false, false_or, beq_iff_eq, apply_ite BitVec.toNat]
    rfl

/-- Settles O21: VOTE's test of masks in each mode says what its active lanes have in common, and MATCH writes each lane the
mask of the lanes that hold its value. -/
theorem votesAndMatches : Obligations.VotesAndMatches := by
  refine ⟨fun f s hact => ?votes, fun f s hact => ?matched⟩
  case votes =>
    intro act p v tells
    have hvote := Eq.trans (b := execVote f s) (a := exec (.vote f) s) rfl (State.performRegs_active _ _ hact)
    have htells {b : Bool} {q : Prop} (hb : b = true ↔ q) (hnext : exec (.vote f) s
        = .next (s.went (ilen f.ext) (s.th.regs.setPred f.d.toNat act (if b then 0xFFFFFFFF else 0)))) : tells q :=
      ⟨b, _, hb, hnext, Regs.setPred_const_wrote ..⟩
    refine ⟨fun hsub => ?any, fun hsub => ?all, fun hsub => ?eq, fun hsub => ?ballot⟩ <;> rw [hsub] at hvote
    case any => exact htells and_ne_zero_iff hvote
    case all =>
      refine htells (and_not_eq_zero_iff.trans ?_) hvote
      exact forall₂_congr fun l _ => ⟨fun h hl => ⟨hl, h hl⟩, fun h hl => (h hl).2⟩
    case eq => exact htells (all_eq_lowestLane_iff hact v) hvote
    case ballot => exact ⟨_, _, hvote, Regs.setScal_wrote .., fun l hl => getLsbD_ballot hl⟩
  case matched =>
    intro act a
    refine ⟨fun l => maskOf fun j => act.getLsbD j && a j == a l, ?regs, ?next, fun l j hj => ?masks, ?wrote⟩
    case next =>
      change execMatchOp f s = _
      rw [execMatchOp]
      exact State.performRegs_active _ _ hact
    case masks => rw [maskOf_getLsbD _ hj, Bool.and_eq_true, beq_iff_eq]
    case wrote =>
      simp only [← matched_toNat]
      exact Regs.putVec_words ..

end Sys2Proof.Machine
end

section
/-! PROOF. Control flow inside a group: what BRA does to the executing thread and its reconvergence stack, and the statements
O23 and O29 (R123, R137, R145). -/

namespace Sys2Proof.Machine

/-! ### Lanes that take a branch and lanes that fall through (R123) -/

/-- Every active lane is in `exec`, so the lanes that fall through and those that take the branch make up `exec`. -/
theorem Thread.fallThrough_or_act (t : Thread) (g : Guard) : (t.exec &&& ~~~t.act g) ||| t.act g = t.exec := by
  rw [Thread.act, BitVec.and_assoc]
  generalize t.live &&& t.regs.guardMask g = m
  ext l hl
  simp only [BitVec.getElem_or, BitVec.getElem_and, BitVec.getElem_not]
  cases t.exec[l] <;> simp

/-- No lane both falls through and takes the branch. -/
theorem fallThrough_and_taken (exec taken : Mask) : (exec &&& ~~~taken) &&& taken = 0 := by
  rw [BitVec.and_assoc, BitVec.and_comm (~~~taken), BitVec.and_not_self]
  exact BitVec.and_zero

/-! ### The branch of a thread (R123) -/

/-- A branch with a join word pushes its join entry unless the topmost join has that PC. -/
theorem pushJoin_some (w : Nat) (m : Mask) (st : List Entry) :
    pushJoin (some w) m st = if topJoin st = some (8 * w) then st else .join (8 * w) m :: st := by
  simp only [pushJoin, beq_iff_eq]

/-- A branch leaves the registers alone, and the lanes that live and those that have ended. -/
theorem Thread.branch_keeps (t : Thread) (taken : Mask) (target next : Nat) (join : Option Nat) :
    (t.branch taken target next join).regs = t.regs ∧ (t.branch taken target next join).live = t.live
      ∧ (t.branch taken target next join).ended = t.ended := by
  unfold Thread.branch
  dsimp only
  split
  · exact ⟨rfl, rfl, rfl⟩
  · split <;> exact ⟨rfl, rfl, rfl⟩

section
variable {t : Thread} {taken : Mask} {target next : Nat} {join : Option Nat}

/-- Where no live lane falls through, the thread goes to the target as it is. -/
theorem Thread.branch_uniform (htaken : taken ≠ 0) (hfall : (t.exec &&& ~~~taken) &&& t.live = 0) :
    t.branch taken target next join = { t with pc := target } := by
  simp only [Thread.branch, if_neg htaken, if_pos hfall]

/-- Where a live lane falls through, that strand goes on and the lanes that take the branch wait. -/
theorem Thread.branch_diverges (htaken : taken ≠ 0) (hfall : (t.exec &&& ~~~taken) &&& t.live ≠ 0) :
    t.branch taken target next join =
      { t with stack := .pending target taken false :: pushJoin join t.exec t.stack, exec := t.exec &&& ~~~taken,
               strand := t.exec &&& ~~~taken, pc := next } := by
  simp only [Thread.branch, if_neg htaken, if_neg hfall]

end

/-! ### The two instructions (R137, R145) -/

@[simp] theorem State.th_moveTo (s : State) (t : Thread) : (s.moveTo t).th = t := State.th_setGrp ..

/-- BRA with an active lane completes with the branch of its thread. -/
theorem exec_bra_active (f : BraOp) {s : State} (hact : s.th.act f.guard ≠ 0) :
    exec (.bra f) s = .next (s.moveTo (s.th.branch (s.th.act f.guard) (s.th.target f.target) (s.th.pc + 16)
      ((s.kernelOf s.grp).joinOf s.th.body s.th.word))) :=
  Eq.trans (b := execBra f s) rfl (State.perform_some _ _ hact)

/-- Settles O23: the branch of R123, read off in its two cases, and the stack of the second by whether the branch has a J. -/
theorem branchDiverges : Obligations.BranchDiverges := by
  intro f s hact act fl target
  obtain ⟨hregs, hlive, hended⟩ := s.th.branch_keeps act target (s.th.pc + 16)
    ((s.kernelOf s.grp).joinOf s.th.body s.th.word)
  refine ⟨_, exec_bra_active f hact, ?_⟩
  rw [State.th_moveTo]
  refine ⟨hregs, hlive, hended, fun hfall => ?uniform, fun hfall => ?diverges⟩
  case uniform =>
    rw [Thread.branch_uniform hact hfall]
    exact ⟨rfl, rfl, rfl⟩
  case diverges =>
    rw [Thread.branch_diverges hact hfall]
    refine ⟨rfl, rfl, rfl, s.th.fallThrough_or_act f.guard, fallThrough_and_taken .., congrArg (List.cons _) ?_⟩
    change pushJoin ((s.kernelOf s.grp).joinOf s.th.body (s.th.pc / 8)) s.th.exec s.th.stack = _
    cases (s.kernelOf s.grp).joinOf s.th.body (s.th.pc / 8) with
    | none => rfl
    | some w => exact pushJoin_some ..

/-- Settles O29: NOP does with an active lane what every instruction does without one, so it advances either way. -/
theorem nopDoesNothing : Obligations.NopDoesNothing := by
  intro f s
  change execNop f s = _
  rw [execNop]
  by_cases hact : s.th.act Guard.always = 0
  · exact State.perform_none _ _ hact
  · exact State.perform_some _ _ hact

end Sys2Proof.Machine
end
